-- ==== Sys2Proof/Word.lean ====
section
/-! DEFINITION. The words of the testing-tun CORE: bytes, and the three formats of spec/opcode_table.json
(the frame condition vector, the host's port word with its reset input), 30_encoding.md R95, R99. -/

namespace Sys2Proof

/-- One byte of a buffer (00_scope.md R9). -/
abbrev Byte := BitVec 8

/-- What the host drives on the block's inputs in one step (30_encoding.md R99): the reset input, the event code, and
the operands of RX_FRAME. -/
structure HostWord where
  /-- the separate reset input `rst` -/
  rst : Bool
  /-- the event code `hev` -/
  hev : BitVec 2
  /-- the frame length `n` of RX_FRAME -/
  n : BitVec 11
  /-- the frame bytes of RX_FRAME -/
  bytes : List Byte
  deriving DecidableEq, Repr

/-- One word of the opcode table: a frame condition vector (R95) or a host word (R99). -/
inductive CodeWord where
  | frame (fcv : BitVec 12)
  | host (w : HostWord)
  deriving DecidableEq, Repr

/-- Why a host word is no event (R232: such a frame cannot be delivered). -/
inductive DecodeError where
  /-- RX_FRAME with `n > 1504` -/
  | frameTooLong
  /-- RX_FRAME whose byte sequence has not `n` bytes -/
  | lengthMismatch
  deriving DecidableEq, Repr

end Sys2Proof
end

