-- ==== Sys2Proof/Config.lean ====
section
/-! DEFINITION. The implementation parameters of 00_scope.md R7 (constants and the configuration record) and the free values. -/

namespace Sys2Proof

/-- What follows a checksum input failure (00_scope.md R7, 45_checksum.md R207). -/
inductive CsumFailPolicy where
  | fatal
  | discard
  deriving DecidableEq, Repr

/-- The configuration record of 00_scope.md R7, R8: the parameters an implementation fixes for a whole run. -/
structure Params where
  /-- `TX_CAP`: the transmit buffer's size in bytes, the prefix counted -/
  txCap : Nat
  /-- `REQUIRE_SYN` -/
  requireSyn : Bool
  /-- `CSUM_FAIL_POLICY` -/
  csumFailPolicy : CsumFailPolicy
  /-- `REPLY_TOS` -/
  replyTos : BitVec 8
  /-- `REPLY_IP_ID` -/
  replyIpId : BitVec 16
  /-- `REPLY_IP_FLAGS_FRAG` -/
  replyIpFlagsFrag : BitVec 16
  /-- `DIAG_ENABLE` -/
  diagEnable : Bool
  deriving DecidableEq, Repr

/-- The defaults of 00_scope.md R7. -/
def Params.defaults : Params where
  txCap := 1500
  requireSyn := true
  csumFailPolicy := .fatal
  replyTos := 0x00
  replyIpId := 0x0000
  replyIpFlagsFrag := 0x0000
  diagEnable := true

/-- `PREFIX_LEN` (R7). -/
@[simp] abbrev Config.prefixLen : Nat := 4
/-- `RX_CAP` (R7): the receive buffer's size, the prefix and `MAX_IP` bytes. -/
@[simp] abbrev Config.rxCap : Nat := 1504
/-- `MAX_IP` (R7): the longest IP packet a frame carries. -/
@[simp] abbrev Config.maxIp : Nat := 1500
/-- `TCP_PROTO` (R7). -/
@[simp] abbrev Config.tcpProto : BitVec 8 := 6
/-- `REPLY_TTL` (R7). -/
@[simp] abbrev Config.replyTtl : BitVec 8 := 64
/-- `REPLY_SEQ` (R7). -/
@[simp] abbrev Config.replySeq : BitVec 32 := 0
/-- `IPV4_MIN_HLEN` in bytes (R7). -/
@[simp] abbrev Config.ipv4MinHlen : Nat := 20
/-- `TCP_MIN_HLEN` in bytes (R7). -/
@[simp] abbrev Config.tcpMinHlen : Nat := 20
/-- `REPLY_LEN` (R7, R180). -/
@[simp] abbrev Config.replyLen : Nat := 44

/-- FREE VALUE: `rx_len` after a RESET step, unspecified within its legal values 0..1504 (10_state.md R20, R35). Log entry 6. -/
opaque Config.freeRxLen : Nat → Fin 1505

/-- FREE VALUE: `tx_len` after a RESET step, unspecified within its legal values 0..1500 (10_state.md R20, R35). Log entry 6. -/
opaque Config.freeTxLen : Nat → Fin 1501

end Sys2Proof
end

