-- ==== Sys2Proof/Syntax.lean ====
section
/-! DEFINITION. The instructions of the testing-tun CORE: one constructor per row of spec/opcode_table.json
(13 frame classes, 30_encoding.md R96; 4 host events and RESET, 30_encoding.md R99). -/

namespace Sys2Proof

/-- The rows of the opcode table. A frame class is the block's counterpart of an opcode: its operands are the
frame held in `RX`, so its constructor has none. -/
inductive Instr where
  /-- FRM_RUNT, class 0 (R237) -/
  | frmRunt
  /-- IP_TRUNC, class 1 (R238) -/
  | ipTrunc
  /-- IP_BADVER, class 2 (R239) -/
  | ipBadver
  /-- IP_BADIHL, class 3 (R240) -/
  | ipBadihl
  /-- IP_SHORTHDR, class 4 (R241) -/
  | ipShorthdr
  /-- IP_BADLEN, class 5 (R242) -/
  | ipBadlen
  /-- IP_NONTCP, class 6 (R243) -/
  | ipNontcp
  /-- TCP_TRUNC, class 7 (R244) -/
  | tcpTrunc
  /-- TCP_BADOFF, class 8 (R245) -/
  | tcpBadoff
  /-- TCP_SHORTHDR, class 9 (R246) -/
  | tcpShorthdr
  /-- TCP_NOSYN, class 10 (R247) -/
  | tcpNosyn
  /-- TCP_DONE, class 11 (R248) -/
  | tcpDone
  /-- TCP_REPLY, class 12 (R249) -/
  | tcpReply
  /-- RX_FRAME(n, bytes), hev 0 (R232) -/
  | rxFrame (n : BitVec 11) (bytes : List Byte)
  /-- RX_FAIL, hev 1 (R233) -/
  | rxFail
  /-- TX_OK, hev 2 (R234) -/
  | txOk
  /-- TX_FAIL, hev 3 (R235) -/
  | txFail
  /-- RESET, the `rst` input (R300) -/
  | reset
  deriving DecidableEq, Repr

end Sys2Proof
end

