-- ==== Sys2Proof/WellFormed.lean ====
section
/-! DEFINITION. Which instructions are well formed: only RX_FRAME has operands, and its length is the length of its
bytes and at most `RX_CAP` (30_encoding.md R70, R99; 46_validation_fsm.md R232). -/

namespace Sys2Proof

/-- The operands of an instruction are ones the port can carry. -/
def Instr.wellFormed : Instr → Bool
  | .rxFrame n bytes => decide (n.toNat ≤ Config.rxCap) && decide (bytes.length = n.toNat)
  | .frmRunt | .ipTrunc | .ipBadver | .ipBadihl | .ipShorthdr | .ipBadlen | .ipNontcp | .tcpTrunc | .tcpBadoff
  | .tcpShorthdr | .tcpNosyn | .tcpDone | .tcpReply | .rxFail | .txOk | .txFail | .reset => true

end Sys2Proof
end

