-- ==== Sys2Proof/Decode.lean ====
section
/-! DEFINITION. The decoder of the three formats of spec/opcode_table.json and, after it, the encoder.
FCV words: the priority decode of 30_encoding.md R96. Host words: 30_encoding.md R99, RESET first (46_validation_fsm.md R221). -/

namespace Sys2Proof

/-- The frame-class decode of R96: the lowest 1 bit of the frame condition vector names the class, none of them TCP_REPLY. -/
def decodeFcv (v : BitVec 12) : Instr :=
  if v.getLsbD 0 then .frmRunt
  else if v.getLsbD 1 then .ipTrunc
  else if v.getLsbD 2 then .ipBadver
  else if v.getLsbD 3 then .ipBadihl
  else if v.getLsbD 4 then .ipShorthdr
  else if v.getLsbD 5 then .ipBadlen
  else if v.getLsbD 6 then .ipNontcp
  else if v.getLsbD 7 then .tcpTrunc
  else if v.getLsbD 8 then .tcpBadoff
  else if v.getLsbD 9 then .tcpShorthdr
  else if v.getLsbD 10 then .tcpNosyn
  else if v.getLsbD 11 then .tcpDone
  else .tcpReply

/-- RX_FRAME's operands (R232): at most `RX_CAP` bytes, and as many as `n` says. -/
def decodeRxFrame (n : BitVec 11) (bytes : List Byte) : Except DecodeError Instr :=
  if Config.rxCap < n.toNat then .error .frameTooLong
  else if bytes.length = n.toNat then .ok (.rxFrame n bytes)
  else .error .lengthMismatch

/-- The host word (R99). `rst` comes before the event code: RESET has priority over every other step (R221, R300). The operand
lines are not read by an event that has no operands (log entry 12). -/
def decodeHost (w : HostWord) : Except DecodeError Instr :=
  if w.rst then .ok .reset
  else match w.hev with
    | 0 => decodeRxFrame w.n w.bytes
    | 1 => .ok .rxFail
    | 2 => .ok .txOk
    | 3 => .ok .txFail

/-- The decoder: total on code words, rejecting by name. -/
def decode : CodeWord → Except DecodeError Instr
  | .frame v => .ok (decodeFcv v)
  | .host w => decodeHost w

/-- A host word with no operands. -/
def hostCode (rst : Bool) (hev : BitVec 2) : CodeWord := .host { rst := rst, hev := hev, n := 0, bytes := [] }

/-- The encoder, from the match column of R96 and the codes of R99 (don't-care bits and unused operand lines 0). -/
def encode : Instr → CodeWord
  | .frmRunt => .frame 0x001
  | .ipTrunc => .frame 0x002
  | .ipBadver => .frame 0x004
  | .ipBadihl => .frame 0x008
  | .ipShorthdr => .frame 0x010
  | .ipBadlen => .frame 0x020
  | .ipNontcp => .frame 0x040
  | .tcpTrunc => .frame 0x080
  | .tcpBadoff => .frame 0x100
  | .tcpShorthdr => .frame 0x200
  | .tcpNosyn => .frame 0x400
  | .tcpDone => .frame 0x800
  | .tcpReply => .frame 0x000
  | .rxFrame n bytes => .host { rst := false, hev := 0, n := n, bytes := bytes }
  | .rxFail => hostCode false 1
  | .txOk => hostCode false 2
  | .txFail => hostCode false 3
  | .reset => hostCode true 0

/-- The format in which a word of the opcode table's own numbering is read. The table's three formats (`frame`, `host_event`,
`reset input`) are three separate inputs of the block and their words collide (1 is FRM_RUNT, RX_FAIL and RESET, 2 is IP_TRUNC
and TX_OK), and a bare number does not say its format. A 16-bit word is an FCV word. An 8-bit word is an FCV word but for 0 and 3,
which are no class row of 8 bits and are read as the event codes RX_FRAME (with operand words of zeros: n = 0, no bytes) and
TX_FAIL. Log entry 9. -/
def tableCode (nbits w : Nat) : Option CodeWord :=
  if 2 ^ nbits ≤ w then none
  else if nbits = 16 then
    if w < 4096 then some (.frame (BitVec.ofNat 12 w)) else none
  else if nbits = 8 then
    if w = 0 then some (hostCode false 0)
    else if w = 3 then some (hostCode false 3)
    else some (.frame (BitVec.ofNat 12 w))
  else none

/-- The instruction the decoder reads from a word of the opcode table (`tableCode`). -/
def decodeTableWord (nbits w : Nat) : Option Instr :=
  match tableCode nbits w with
  | none => none
  | some c =>
    match decode c with
    | .ok i => some i
    | .error _ => none

end Sys2Proof
end

