-- ==== Sys2Proof/Machine/State.lean ====
section
/-! DEFINITION. The state of the testing-tun CORE (10_state.md R20), what a step can end in, and the state after reset (R35, R300). -/

namespace Sys2Proof.Machine

/-- The FSM register (10_state.md R20, R23). -/
inductive Fsm where
  /-- 0: the block accepts RX_FRAME or RX_FAIL -/
  | idle
  /-- 1: the block holds a frame, its next step is EXEC -/
  | proc
  /-- 2: a reply is offered, the block waits for TX_OK or TX_FAIL -/
  | send
  /-- 3: a fatal error was taken, only RESET leaves it -/
  | halt
  deriving DecidableEq, Repr

/-- A buffer: (offset, byte) pairs, offsets strictly rising. An offset that is not listed holds no value (R35, R301). -/
abbrev Memory := List Host.Cell

/-- The canonical form of a buffer of `size` bytes: offsets strictly rising and inside the buffer. -/
abbrev Memory.wf (size : Nat) (m : Memory) : Prop :=
  m.Pairwise (fun a b => a.1 < b.1) ∧ ∀ c ∈ m, c.1 < size

/-- A record on the diagnostic port (30_encoding.md R102). -/
inductive DiagRec where
  /-- tag 1, DIAG_IPV4 -/
  | ipv4 (src dst : BitVec 32) (payloadLen : BitVec 16) (protocol ttl : BitVec 8)
  /-- tag 2, DIAG_TCP -/
  | tcp (src : BitVec 32) (sport : BitVec 16) (dst : BitVec 32) (dport : BitVec 16) (payloadLen : BitVec 16)
  /-- tag 3, DIAG_MALFORMED -/
  | malformed (cls : BitVec 4)
  /-- tag 4, DIAG_REPLY -/
  | reply (len : BitVec 11) (bytes : List Byte)
  deriving DecidableEq, Repr

/-- The outcome label of an EXEC step (46_validation_fsm.md R225): the class, and the fault code if the step was fatal. -/
structure ExecLabel where
  cls : BitVec 4
  fatal : Option (BitVec 3)
  deriving DecidableEq, Repr

/-- Whose turn a step is (00_scope.md R6, 10_state.md R36): the block's, or the host's with the word it presents. -/
inductive Turn where
  | block
  | host (w : HostWord)
  deriving DecidableEq, Repr

/-- The machine. The first seven fields are the block's persistent state, exactly the elements of 10_state.md R20; the last five
are the model's own: the arguments of the step relation (R36), what its outputs have carried (R225, R250) and the free-value
counter. -/
structure State where
  /-- `fsm` (2 bits) -/
  fsm : Fsm
  /-- `responded` (1 bit) -/
  responded : Bool
  /-- `fault` (3 bits), a code of 60_exceptions.md R271 -/
  fault : BitVec 3
  /-- `rx_len` (11 bits) -/
  rxLen : BitVec 11
  /-- `RX` (1504 bytes) -/
  rx : Memory
  /-- `tx_len` (11 bits) -/
  txLen : BitVec 11
  /-- `TX` (`TX_CAP` bytes) -/
  tx : Memory
  /-- the configuration, fixed for the run (00_scope.md R8; log entry 2) -/
  cfg : Params
  /-- the schedule, next turn first (log entry 1) -/
  turns : List Turn
  /-- the records the diagnostic port has carried, oldest first (46_validation_fsm.md R250; log entry 3) -/
  diag : List DiagRec
  /-- the labels of the EXEC steps taken, oldest first (46_validation_fsm.md R225; log entry 3) -/
  labels : List ExecLabel
  /-- how many free values have been drawn (log entry 6) -/
  fresh : Nat
  deriving DecidableEq, Repr

/-- Reads to which the spec gives no meaning (R27, R56, R301, R314). All are safe: the model stops. The block's own fatal errors
are not faults of the model but next states in HALT (60_exceptions.md R274). -/
inductive Fault where
  /-- A read of `RX[i]` with `i >= rx_len` (20_memory.md R56, R314). Raised by `rxByte`. Safe. -/
  | rxBeyondFrame
  /-- A read of a byte of `RX` that no RX_FRAME has written since reset (R301). Raised by `rxByte`. Safe. -/
  | rxUnwritten
  /-- A read of a byte of `TX` that no reply has written since reset (R301). Raised by `txByte`. Safe. -/
  | txUnwritten
  /-- A read of `TX` outside SEND, where no frame is offered (20_memory.md R51, R314). Raised by `txByte` and `txFrame`. Safe. -/
  | txNotOffered
  /-- An access to an offset outside the buffer (20_memory.md R50). Raised by `rxByte` and `txByte`. Safe. -/
  | noSuchOffset
  /-- A view field read where an FCV bit that guards it is 1 (10_state.md R27). Raised by `ipLen` and the views of Operands.lean. Safe. -/
  | viewUndefined
  deriving DecidableEq, Repr

/-- A step with no move (00_scope.md R14, 46_validation_fsm.md R236). All are safe: the model stops. -/
inductive Refusal where
  /-- An instruction that has no meaning yet. Raised by exec's refused arms. Safe. -/
  | notModelled (mnemonic : String)
  /-- A step in a state that does not enable it (R220, R236). Raised by every meaning but RESET's. Safe. -/
  | notEnabled
  /-- A class rule applied to a frame that decodes to another class (R222). Raised by `onClass`. Safe. -/
  | classMismatch
  /-- A host word that is no event: a frame the port cannot carry (R232, R312). Raised by `fetch` and by RX_FRAME. Safe. -/
  | rejected (e : DecodeError)
  /-- The block's turn outside PROC: no step is enabled until the host moves (R220, R228). Raised by `fetch`. Safe. -/
  | awaitsHost
  deriving DecidableEq, Repr

/-- The machine right after reset (R35, R300, R301): IDLE, not yet responded, no fault, the buffers without values. `rx_len` and
`tx_len` are unspecified after reset: 0 here is a DESIGN CHOICE (log entry 5). -/
def State.reset : State where
  fsm := .idle
  responded := false
  fault := 0
  rxLen := 0
  rx := []
  txLen := 0
  tx := []
  cfg := Params.defaults
  turns := []
  diag := []
  labels := []
  fresh := 0

end Sys2Proof.Machine
end

