-- ==== Sys2Proof/Machine/Ops.lean ====
section
/-! DEFINITION. The named operations over the buffers and the registers: byte access (20_memory.md), byte order
(00_scope.md R11), the fatal halt (60_exceptions.md R274), the way out of it (70_reset_and_hazards.md R300), the end of
processing (46_validation_fsm.md R226), the outputs. -/

namespace Sys2Proof.Machine

/-! ### Buffers -/

/-- The byte at offset `a`, if one has been written. -/
def Memory.read : Memory → Nat → Option Byte
  | [], _ => none
  | c :: m, a => if c.1 = a then some c.2 else Memory.read m a

/-- The cells that hold `bs` from offset `base` on. -/
def Memory.cells : Nat → List Byte → Memory
  | _, [] => []
  | base, b :: bs => (base, b) :: Memory.cells (base + 1) bs

/-- Write `bs` at offset `base`: the cells below and above stay (R51, R55). -/
def Memory.writeBytes (m : Memory) (base : Nat) (bs : List Byte) : Memory :=
  m.filter (fun c => decide (c.1 < base)) ++ Memory.cells base bs ++
    m.filter (fun c => decide (base + bs.length ≤ c.1))

/-- The one read of `RX` (20_memory.md R56, R301): only below `rx_len`, inside the buffer, and written. -/
def rxByte (s : State) (i : Nat) : Except Fault Byte :=
  if s.rxLen.toNat ≤ i then .error .rxBeyondFrame
  else if Config.rxCap ≤ i then .error .noSuchOffset
  else match s.rx.read i with
    | none => .error .rxUnwritten
    | some b => .ok b

/-- The one read of `TX` (20_memory.md R50, R51, R301): only in SEND, inside the buffer, and written. -/
def txByte (s : State) (i : Nat) : Except Fault Byte :=
  if s.fsm ≠ .send then .error .txNotOffered
  else if s.cfg.txCap ≤ i then .error .noSuchOffset
  else match s.tx.read i with
    | none => .error .txUnwritten
    | some b => .ok b

/-- `RX[i..i+n)` (00_scope.md R10, R11). -/
def rxBytes (s : State) : Nat → Nat → Except Fault (List Byte)
  | _, 0 => .ok []
  | i, n + 1 =>
    match rxByte s i with
    | .error f => .error f
    | .ok b =>
      match rxBytes s (i + 1) n with
      | .error f => .error f
      | .ok bs => .ok (b :: bs)

/-- `TX[i..i+n)` (00_scope.md R10, R11). -/
def txBytes (s : State) : Nat → Nat → Except Fault (List Byte)
  | _, 0 => .ok []
  | i, n + 1 =>
    match txByte s i with
    | .error f => .error f
    | .ok b =>
      match txBytes s (i + 1) n with
      | .error f => .error f
      | .ok bs => .ok (b :: bs)

/-! ### Byte order (00_scope.md R11, 20_memory.md R52): the most significant byte first -/

/-- The 16-bit value of two bytes. -/
def be16 (b0 b1 : Byte) : BitVec 16 := b0 ++ b1

/-- The 32-bit value of four bytes. -/
def be32 (b0 b1 b2 b3 : Byte) : BitVec 32 := be16 b0 b1 ++ be16 b2 b3

/-- The two bytes of a 16-bit value. -/
def bytes16 (v : BitVec 16) : List Byte := [v.extractLsb' 8 8, v.extractLsb' 0 8]

/-- The four bytes of a 32-bit value. -/
def bytes32 (v : BitVec 32) : List Byte := bytes16 (v.extractLsb' 16 16) ++ bytes16 (v.extractLsb' 0 16)

/-- `put16(B, i, v)` on a byte sequence. -/
def put16 (bs : List Byte) (i : Nat) (v : BitVec 16) : List Byte :=
  (bs.set i (v.extractLsb' 8 8)).set (i + 1) (v.extractLsb' 0 8)

/-! ### Registers and outputs -/

/-- The 2-bit code of an FSM state (10_state.md R20). -/
def Fsm.code : Fsm → BitVec 2
  | .idle => 0
  | .proc => 1
  | .send => 2
  | .halt => 3

/-- The tag of a diagnostic record (30_encoding.md R102). -/
def DiagRec.tag : DiagRec → BitVec 3
  | .ipv4 .. => 1
  | .tcp .. => 2
  | .malformed .. => 3
  | .reply .. => 4

/-- Fault code 1, CHAN_RX (60_exceptions.md R271). -/
def codeChanRx : BitVec 3 := 1
/-- Fault code 2, CHAN_TX (R271). -/
def codeChanTx : BitVec 3 := 2
/-- Fault code 3, CSUM_FAIL (R271). -/
def codeCsumFail : BitVec 3 := 3
/-- Fault code 4, BUF_SMALL (R271). -/
def codeBufSmall : BitVec 3 := 4

/-- `fsm <- x` (00_scope.md R13). -/
def State.setFsm (s : State) (x : Fsm) : State := { s with fsm := x }

/-- `emit DIAG(rec)`: a no-op when DIAG_ENABLE is false (46_validation_fsm.md R252). -/
def State.emit (s : State) (r : DiagRec) : State :=
  if s.cfg.diagEnable then { s with diag := s.diag ++ [r] } else s

/-- The label an EXEC step carries (46_validation_fsm.md R225). -/
def State.addLabel (s : State) (cls : BitVec 4) (fatal : Option (BitVec 3)) : State :=
  { s with labels := s.labels ++ [{ cls := cls, fatal := fatal }] }

/-- TAKING A FATAL ERROR, `raise Fatal(code)` (60_exceptions.md R274): `fault <- code`, `fsm <- HALT`, nothing else. -/
def State.raiseFatal (s : State) (code : BitVec 3) : State := { s with fault := code, fsm := .halt }

/-- THE WAY OUT OF HALT, and out of every other state: RESET (70_reset_and_hazards.md R300, 60_exceptions.md R276). The buffers
have no value after it, the lengths are free values (10_state.md R35; log entry 6). -/
def State.doReset (s : State) : State :=
  { s with
    fsm := .idle
    responded := false
    fault := 0
    rxLen := BitVec.ofNat 11 (Config.freeRxLen s.fresh).val
    rx := []
    txLen := BitVec.ofNat 11 (Config.freeTxLen s.fresh).val
    tx := []
    fresh := s.fresh + 1 }

/-- The classes whose discard sends DIAG_MALFORMED (46_validation_fsm.md R226): 0 to 5 and 7 to 9. -/
def malformedClass (cls : BitVec 4) : Bool :=
  decide (cls.toNat ≤ 5) || (decide (7 ≤ cls.toNat) && decide (cls.toNat ≤ 9))

/-- `discard(cls)` (46_validation_fsm.md R226), with the label of R225. -/
def State.discard (s : State) (cls : BitVec 4) : State :=
  ((if malformedClass cls then s.emit (.malformed cls) else s).setFsm .idle).addLabel cls none

/-- RX_FRAME's effect (46_validation_fsm.md R232): `RX[0..n) <- bytes`, `rx_len <- n`, PROC. -/
def State.receive (s : State) (n : BitVec 11) (bytes : List Byte) : State :=
  { s with rx := s.rx.writeBytes 0 bytes, rxLen := n, fsm := .proc }

/-- The end of the reply path (43_responder.md R170, 44_reply_builder.md R188): the frame into `TX`, `tx_len`, `responded <- 1`, SEND. -/
def State.offer (s : State) (frame : List Byte) : State :=
  { s with
    tx := s.tx.writeBytes 0 frame
    txLen := BitVec.ofNat 11 Config.replyLen
    responded := true
    fsm := .send }

end Sys2Proof.Machine
end

