-- ==== Sys2Proof/Machine/Operands.lean ====
section
/-! DEFINITION. The operand forms: the fields of the IPv4 and TCP views as functions of `RX` and `rx_len`
(10_state.md R27 to R29, 41_ipv4_parser.md, 42_tcp_parser.md), each view behind the guard that defines it. -/

namespace Sys2Proof.Machine

/-- `be16(RX, i)` (00_scope.md R11). -/
def rx16 (s : State) (i : Nat) : Except Fault (BitVec 16) := do
  let b0 ← rxByte s i
  let b1 ← rxByte s (i + 1)
  .ok (be16 b0 b1)

/-- `be32(RX, i)` (00_scope.md R11). -/
def rx32 (s : State) (i : Nat) : Except Fault (BitVec 32) := do
  let h0 ← rx16 s i
  let h1 ← rx16 s (i + 2)
  .ok (h0 ++ h1)

/-- The fixed part of the IPv4 header (30_encoding.md R72; the fields that share bytes 6 and 7: 20_memory.md R53). -/
structure IpHeader where
  version : BitVec 4
  ihl : BitVec 4
  tos : BitVec 8
  totalLength : BitVec 16
  ident : BitVec 16
  reservedFlag : BitVec 1
  dontFragment : BitVec 1
  moreFragments : BitVec 1
  fragmentOffset : BitVec 13
  ttl : BitVec 8
  protocol : BitVec 8
  hdrChecksum : BitVec 16
  src : BitVec 32
  dst : BitVec 32
  deriving DecidableEq, Repr

/-- The fixed part of the TCP header (30_encoding.md R80). -/
structure TcpHeader where
  sport : BitVec 16
  dport : BitVec 16
  seq : BitVec 32
  ack : BitVec 32
  doff : BitVec 4
  reserved : BitVec 3
  ns : BitVec 1
  flags : BitVec 8
  window : BitVec 16
  checksum : BitVec 16
  urgent : BitVec 16
  deriving DecidableEq, Repr

/-- `ip_len = rx_len - 4` (41_ipv4_parser.md R120), the length of the IP slice of FRAME_DECODE (40_frame_codec.md R112): defined
only when FCV bit 0 is 0 (10_state.md R28). -/
def ipLen (s : State) : Except Fault Nat :=
  if s.rxLen.toNat < Config.prefixLen then .error .viewUndefined else .ok (s.rxLen.toNat - Config.prefixLen)

/-- `ip.hlen = 4 * ip.ihl` (R122). -/
def IpHeader.hlen (h : IpHeader) : Nat := 4 * h.ihl.toNat

/-- `ip.payload_start = 4 + ip.hlen`, a frame offset (R131). DESIGN CHOICE: a function of any header; on one that does not parse,
where R28 leaves the field undefined, the number means nothing and nothing reads it (log entry 18). -/
def IpHeader.payloadStart (h : IpHeader) : Nat := Config.prefixLen + h.hlen

/-- `ip.payload_len = ip.total_length - ip.hlen`, which is `tcp_len` (R131). DESIGN CHOICE: a function of any header; on one that does
not parse, where R28 leaves the field undefined, it is the truncated difference and nothing reads it (log entry 18). -/
def IpHeader.payloadLen (h : IpHeader) : Nat := h.totalLength.toNat - h.hlen

/-- `tcp.hlen = 4 * tcp.doff` (42_tcp_parser.md R142). -/
def TcpHeader.hlen (t : TcpHeader) : Nat := 4 * t.doff.toNat

/-- `SYN = tcp.flags[1]` (30_encoding.md R85, 42_tcp_parser.md R143). -/
def TcpHeader.syn (t : TcpHeader) : Bool := t.flags.getLsbD 1

/-- `ACK = tcp.flags[4]` (R85, R143). -/
def TcpHeader.ackFlag (t : TcpHeader) : Bool := t.flags.getLsbD 4

/-- `tcp.payload_len = tcp_len - tcp.hlen` (42_tcp_parser.md R150). DESIGN CHOICE: on headers that do not parse, where R29 leaves the
field undefined, it is the truncated difference and nothing reads it (log entry 18). -/
def tcpPayloadLen (h : IpHeader) (t : TcpHeader) : Nat := h.payloadLen - t.hlen

/-- The IPv4 fixed header at frame offset 4 (R121 to R127; layout R72). -/
def readIp (s : State) : Except Fault IpHeader := do
  let b0 ← rxByte s 4
  let tos ← rxByte s 5
  let tot ← rx16 s 6
  let ident ← rx16 s 8
  let ff ← rx16 s 10
  let ttl ← rxByte s 12
  let proto ← rxByte s 13
  let ck ← rx16 s 14
  let src ← rx32 s 16
  let dst ← rx32 s 20
  .ok {
    version := b0.extractLsb' 4 4, ihl := b0.extractLsb' 0 4, tos := tos, totalLength := tot, ident := ident,
    reservedFlag := ff.extractLsb' 15 1, dontFragment := ff.extractLsb' 14 1, moreFragments := ff.extractLsb' 13 1,
    fragmentOffset := ff.extractLsb' 0 13, ttl := ttl, protocol := proto, hdrChecksum := ck, src := src, dst := dst }

/-- The TCP fixed header at frame offset `b` (R140 to R145; layout R80). -/
def readTcp (s : State) (b : Nat) : Except Fault TcpHeader := do
  let sport ← rx16 s b
  let dport ← rx16 s (b + 2)
  let seq ← rx32 s (b + 4)
  let ack ← rx32 s (b + 8)
  let b12 ← rxByte s (b + 12)
  let flags ← rxByte s (b + 13)
  let window ← rx16 s (b + 14)
  let ck ← rx16 s (b + 16)
  let urg ← rx16 s (b + 18)
  .ok {
    sport := sport, dport := dport, seq := seq, ack := ack, doff := b12.extractLsb' 4 4,
    reserved := b12.extractLsb' 1 3, ns := b12.extractLsb' 0 1, flags := flags, window := window,
    checksum := ck, urgent := urg }

/-- FCV bits 2 to 5 are 0 in an IP slice of `len` bytes (41_ipv4_parser.md R128). -/
def ipAccepts (len : Nat) (h : IpHeader) : Bool :=
  decide (h.version = 4) && decide (5 ≤ h.ihl.toNat) && decide (h.hlen ≤ len) &&
    decide (h.hlen ≤ h.totalLength.toNat) && decide (h.totalLength.toNat ≤ len)

/-- FCV bits 8 and 9 are 0 (42_tcp_parser.md R146). -/
def tcpAccepts (h : IpHeader) (t : TcpHeader) : Bool :=
  decide (5 ≤ t.doff.toNat) && decide (t.hlen ≤ h.payloadLen)

/-- The IPv4 view's header fields: defined only when FCV bits 0 and 1 are 0 (10_state.md R28). -/
def ipView (s : State) : Except Fault IpHeader :=
  match ipLen s with
  | .error f => .error f
  | .ok len => if len < Config.ipv4MinHlen then .error .viewUndefined else readIp s

/-- The IPv4 view with its payload fields: they also need FCV bits 2 to 5 to be 0 (R28). -/
def ipParsed (s : State) : Except Fault IpHeader :=
  match ipLen s with
  | .error f => .error f
  | .ok len =>
    match ipView s with
    | .error f => .error f
    | .ok h => if ipAccepts len h then .ok h else .error .viewUndefined

/-- The TCP view's header fields: defined only when FCV bits 0 to 7 are 0 (10_state.md R29). -/
def tcpView (s : State) : Except Fault TcpHeader :=
  match ipParsed s with
  | .error f => .error f
  | .ok h =>
    if h.protocol = Config.tcpProto ∧ Config.tcpMinHlen ≤ h.payloadLen then readTcp s h.payloadStart
    else .error .viewUndefined

/-- The TCP view with `tcp.payload_len`: it also needs FCV bits 8 and 9 to be 0 (R29). -/
def tcpParsed (s : State) : Except Fault TcpHeader :=
  match ipParsed s with
  | .error f => .error f
  | .ok h =>
    match tcpView s with
    | .error f => .error f
    | .ok t => if tcpAccepts h t then .ok t else .error .viewUndefined

end Sys2Proof.Machine
end

