-- ==== Sys2Proof/Machine/Flags.lean ====
section
/-! DEFINITION. The frame condition vector (30_encoding.md R95): the block's flags, computed from `RX`, `rx_len`, `responded` and
`REQUIRE_SYN`. A bit is evaluated only when the bits below it are 0; the bits above the first 1 are don't-care and are given as 0
(log entry 8). -/

namespace Sys2Proof.Machine

/-- FCV bits 8 to 11, in order (42_tcp_parser.md R146, 43_responder.md R160, R161). -/
def fcvTcp (s : State) (h : IpHeader) (t : TcpHeader) : BitVec 12 :=
  if t.doff.toNat < 5 then 0x100
  else if h.payloadLen < t.hlen then 0x200
  else if s.cfg.requireSyn && !t.syn then 0x400
  else if s.responded then 0x800
  else 0x000

/-- FCV bits 2 to 11, in order, in an IP slice of `len` bytes (41_ipv4_parser.md R128, 43_responder.md R161, 42_tcp_parser.md R146). -/
def fcvIp (s : State) (len : Nat) (h : IpHeader) : Except Fault (BitVec 12) :=
  if h.version ≠ 4 then .ok 0x004
  else if h.ihl.toNat < 5 then .ok 0x008
  else if len < h.hlen then .ok 0x010
  else if h.totalLength.toNat < h.hlen ∨ len < h.totalLength.toNat then .ok 0x020
  else if h.protocol ≠ Config.tcpProto then .ok 0x040
  else if h.payloadLen < Config.tcpMinHlen then .ok 0x080
  else match readTcp s h.payloadStart with
    | .error f => .error f
    | .ok t => .ok (fcvTcp s h t)

/-- The frame condition vector of the held frame (R95; bits 0 and 1: 40_frame_codec.md R111, 41_ipv4_parser.md R128). -/
def fcv (s : State) : Except Fault (BitVec 12) :=
  if s.rxLen.toNat < Config.prefixLen then .ok 0x001
  else match ipLen s with
    | .error f => .error f
    | .ok len =>
      if len < Config.ipv4MinHlen then .ok 0x002
      else match ipView s with
        | .error f => .error f
        | .ok h => fcvIp s len h

end Sys2Proof.Machine
end

