-- ==== Sys2Proof/Machine/Checksum.lean ====
section
/-! DEFINITION. The checksum engine (45_checksum.md). -/

namespace Sys2Proof.Machine

/-- `a +1c b` (R200): the 17-bit sum with its carry added back in. -/
def onesAdd (a b : BitVec 16) : BitVec 16 :=
  let s := a.toNat + b.toNat
  BitVec.ofNat 16 (s % 65536 + s / 65536)

/-- `ones_sum` from an accumulator on (R201); an odd last byte is padded with a zero byte. -/
def onesSumFrom (acc : BitVec 16) : List Byte → BitVec 16
  | [] => acc
  | [a] => onesAdd acc (be16 a 0)
  | a :: b :: bs => onesSumFrom (onesAdd acc (be16 a b)) bs

/-- `ones_sum(D)` (R201). -/
def onesSum (bs : List Byte) : BitVec 16 := onesSumFrom 0 bs

/-- `csum16(D) = ~ones_sum(D)` (R203). -/
def csum16 (bs : List Byte) : BitVec 16 := ~~~(onesSum bs)

/-- `PH(src, dst, proto, len)` (R204, 30_encoding.md R88). -/
def pseudoHeader (src dst : BitVec 32) (proto : BitVec 8) (len : BitVec 16) : List Byte :=
  bytes32 src ++ bytes32 dst ++ [0x00, proto] ++ bytes16 len

/-- TCP_CHECKSUM (R206): none is `ChecksumComputationFailure`, a segment longer than its 16-bit length field can say (R207). -/
def tcpChecksum (src dst : BitVec 32) (proto : BitVec 8) (seg : List Byte) : Option (BitVec 16) :=
  if 0xFFFF < seg.length then none
  else some (csum16 (pseudoHeader src dst proto (BitVec.ofNat 16 seg.length) ++ seg))

end Sys2Proof.Machine
end

