-- ==== Sys2Proof/Machine/Reply.lean ====
section
/-! DEFINITION. DERIVE_REPLY (43_responder.md R162 to R169) and REPLY_BUILD (44_reply_builder.md R180 to R188). -/

namespace Sys2Proof.Machine

/-- The Reply Descriptor (10_state.md R31), less its two checksums, which the builder computes (R184, R185). -/
structure ReplyDesc where
  ipSrc : BitVec 32
  ipDst : BitVec 32
  ttl : BitVec 8
  protocol : BitVec 8
  sport : BitVec 16
  dport : BitVec 16
  seq : BitVec 32
  ack : BitVec 32
  flags : BitVec 8
  window : BitVec 16
  deriving DecidableEq, Repr

/-- DERIVE_REPLY (R169). -/
def deriveReply (h : IpHeader) (t : TcpHeader) : ReplyDesc where
  ipSrc := h.dst
  ipDst := h.src
  ttl := Config.replyTtl
  protocol := Config.tcpProto
  sport := t.dport
  dport := t.sport
  seq := Config.replySeq
  ack := t.seq + 1
  flags := 0x12
  window := t.window

/-- The reply IPv4 header with its checksum field zero (R181). -/
def replyIpHeader (c : Params) (r : ReplyDesc) : List Byte :=
  [0x45, c.replyTos] ++ bytes16 0x0028 ++ bytes16 c.replyIpId ++ bytes16 c.replyIpFlagsFrag ++
    [r.ttl, r.protocol] ++ bytes16 0 ++ bytes32 r.ipSrc ++ bytes32 r.ipDst

/-- The reply TCP header with its checksum field zero (R182). -/
def replyTcpHeader (r : ReplyDesc) : List Byte :=
  bytes16 r.sport ++ bytes16 r.dport ++ bytes32 r.seq ++ bytes32 r.ack ++ [0x50, r.flags] ++
    bytes16 r.window ++ bytes16 0 ++ bytes16 0

/-- What REPLY_BUILD ends in (R188). -/
inductive BuildResult where
  /-- the reply frame, to be written to `TX` -/
  | built (frame : List Byte)
  /-- `BufferTooSmall` (R187) -/
  | bufSmall
  /-- `ChecksumComputationFailure` (45_checksum.md R207) -/
  | csumFail
  deriving DecidableEq, Repr

/-- REPLY_BUILD (R188) up to its writes: `pre` is the request's frame prefix (40_frame_codec.md R113). The capacity check comes
first (R187, R277), then the IPv4 header checksum (R184), then the TCP checksum (R185). -/
def buildReply (c : Params) (pre : List Byte) (r : ReplyDesc) : BuildResult :=
  if c.txCap < Config.replyLen then .bufSmall
  else
    let hdr := put16 (replyIpHeader c r) 10 (csum16 (replyIpHeader c r))
    match tcpChecksum r.ipSrc r.ipDst r.protocol (replyTcpHeader r) with
    | none => .csumFail
    | some ck => .built (pre ++ hdr ++ put16 (replyTcpHeader r) 16 ck)

end Sys2Proof.Machine
end

