-- ==== Sys2Proof/Machine/Frames.lean ====
section
/-! DEFINITION. The meanings of the 13 frame classes (46_validation_fsm.md R237 to R249), each the part of EXEC (R224) that its
class reaches. -/

namespace Sys2Proof.Machine

/-- What a step ends in. -/
abbrev Outcome := Host.Outcome State Fault Refusal

/-- EXEC's guard (R222, R224, R230): the block is in PROC and the held frame decodes to the class `i`. A class rule has no move on
a frame of another class (log entry 11). -/
def onClass (i : Instr) (s : State) (k : Outcome) : Outcome :=
  if s.fsm = .proc then
    match fcv s with
    | .error f => .fault f
    | .ok v => if decodeFcv v = i then k else .refused .classMismatch
  else .refused .notEnabled

/-- The parsed IPv4 view, for what follows FCV bit 5 (R224). -/
def withIp (s : State) (k : IpHeader → Outcome) : Outcome :=
  match ipParsed s with
  | .error f => .fault f
  | .ok h => k h

/-- The parsed TCP view, for what follows FCV bit 9 (R224). -/
def withTcp (s : State) (k : TcpHeader → Outcome) : Outcome :=
  match tcpParsed s with
  | .error f => .fault f
  | .ok t => k t

/-- DIAG_IPV4 (R251). -/
def ipv4Record (h : IpHeader) : DiagRec :=
  .ipv4 h.src h.dst (BitVec.ofNat 16 h.payloadLen) h.protocol h.ttl

/-- DIAG_TCP (R251). -/
def tcpRecord (h : IpHeader) (t : TcpHeader) : DiagRec :=
  .tcp h.src t.sport h.dst t.dport (BitVec.ofNat 16 (tcpPayloadLen h t))

/-- The end of the classes that are reached before the IPv4 view is parsed (0 to 5): `discard(cls)`. -/
def discardRaw (s : State) (cls : BitVec 4) : Outcome := .next (s.discard cls)

/-- The end of the classes that are reached with the IPv4 view parsed (6 to 9): DIAG_IPV4, then `discard(cls)`. -/
def discardIp (s : State) (cls : BitVec 4) : Outcome :=
  withIp s fun h => .next ((s.emit (ipv4Record h)).discard cls)

/-- The end of the classes that are reached with both views parsed (10, 11): DIAG_IPV4, DIAG_TCP, then `discard(cls)`. -/
def discardTcp (s : State) (cls : BitVec 4) : Outcome :=
  withIp s fun h => withTcp s fun t => .next (((s.emit (ipv4Record h)).emit (tcpRecord h t)).discard cls)

/-- What follows REPLY_BUILD (43_responder.md R170, 44_reply_builder.md R188, R230): `s` has sent its two records. -/
def finishReply (s : State) : BuildResult → State
  | .built frame => (s.offer frame).addLabel 12 none
  | .bufSmall => (s.raiseFatal codeBufSmall).addLabel 12 (some codeBufSmall)
  | .csumFail =>
    match s.cfg.csumFailPolicy with
    | .fatal => (s.raiseFatal codeCsumFail).addLabel 12 (some codeCsumFail)
    | .discard => s.discard 12

/-- The reply path (43_responder.md R170). -/
def replyPath (s : State) : Outcome :=
  withIp s fun h => withTcp s fun t =>
    match rxBytes s 0 Config.prefixLen with
    | .error f => .fault f
    | .ok pre =>
      .next (finishReply ((s.emit (ipv4Record h)).emit (tcpRecord h t)) (buildReply s.cfg pre (deriveReply h t)))

/-- FRM_RUNT (R237). -/
def execFrmRunt (s : State) : Outcome := onClass .frmRunt s (discardRaw s 0)

/-- IP_TRUNC (R238). -/
def execIpTrunc (s : State) : Outcome := onClass .ipTrunc s (discardRaw s 1)

/-- IP_BADVER (R239). -/
def execIpBadver (s : State) : Outcome := onClass .ipBadver s (discardRaw s 2)

/-- IP_BADIHL (R240). -/
def execIpBadihl (s : State) : Outcome := onClass .ipBadihl s (discardRaw s 3)

/-- IP_SHORTHDR (R241). -/
def execIpShorthdr (s : State) : Outcome := onClass .ipShorthdr s (discardRaw s 4)

/-- IP_BADLEN (R242). -/
def execIpBadlen (s : State) : Outcome := onClass .ipBadlen s (discardRaw s 5)

/-- IP_NONTCP (R243). -/
def execIpNontcp (s : State) : Outcome := onClass .ipNontcp s (discardIp s 6)

/-- TCP_TRUNC (R244). -/
def execTcpTrunc (s : State) : Outcome := onClass .tcpTrunc s (discardIp s 7)

/-- TCP_BADOFF (R245). -/
def execTcpBadoff (s : State) : Outcome := onClass .tcpBadoff s (discardIp s 8)

/-- TCP_SHORTHDR (R246). -/
def execTcpShorthdr (s : State) : Outcome := onClass .tcpShorthdr s (discardIp s 9)

/-- TCP_NOSYN (R247). -/
def execTcpNosyn (s : State) : Outcome := onClass .tcpNosyn s (discardTcp s 10)

/-- TCP_DONE (R248). -/
def execTcpDone (s : State) : Outcome := onClass .tcpDone s (discardTcp s 11)

/-- TCP_REPLY (R249). -/
def execTcpReply (s : State) : Outcome := onClass .tcpReply s (replyPath s)

end Sys2Proof.Machine
end

