-- ==== Sys2Proof/Machine/Status.lean ====
section
/-! DEFINITION. The status outputs (10_state.md R33, 60_exceptions.md R275): pure functions of the state. -/

namespace Sys2Proof.Machine

/-- `rx_ready = (fsm == IDLE)` -/
def rxReady (s : State) : Bool := s.fsm = .idle

/-- `tx_valid = (fsm == SEND)` -/
def txValid (s : State) : Bool := s.fsm = .send

/-- `TX[0..tx_len)`, the frame on the transmit port. It is offered while `tx_valid` holds and cannot be read else (20_memory.md R51,
10_state.md R26, 70_reset_and_hazards.md R314). -/
def txFrame (s : State) : Except Fault (List Byte) :=
  if txValid s then txBytes s 0 s.txLen.toNat else .error .txNotOffered

/-- `halted = (fsm == HALT)` -/
def halted (s : State) : Bool := s.fsm = .halt

/-- `fault_code = fault` -/
def faultCode (s : State) : BitVec 3 := s.fault

/-- `responded_out = responded` -/
def respondedOut (s : State) : Bool := s.responded

end Sys2Proof.Machine
end

