-- ==== Sys2Proof/Machine/HostEvents.lean ====
section
/-! DEFINITION. The meanings of the host events (46_validation_fsm.md R232 to R236) and of RESET (70_reset_and_hazards.md R300). -/

namespace Sys2Proof.Machine

/-- A host event is taken in the one FSM state that enables it and has no move in any other (R220, R236). -/
def onFsm (x : Fsm) (s : State) (k : Outcome) : Outcome :=
  if s.fsm = x then k else .refused .notEnabled

/-- RX_FRAME(n, bytes) (R232). A frame the port cannot carry has no move (R230, R312). -/
def execRxFrame (n : BitVec 11) (bytes : List Byte) (s : State) : Outcome :=
  onFsm .idle s
    (if Config.rxCap < n.toNat then .refused (.rejected .frameTooLong)
     else if bytes.length = n.toNat then .next (s.receive n bytes)
     else .refused (.rejected .lengthMismatch))

/-- RX_FAIL (R233): `raise Fatal(CHAN_RX)`. -/
def execRxFail (s : State) : Outcome := onFsm .idle s (.next (s.raiseFatal codeChanRx))

/-- TX_OK (R234): the host has accepted `TX[0..tx_len)`; DIAG_REPLY, then IDLE. -/
def execTxOk (s : State) : Outcome :=
  onFsm .send s
    (match txFrame s with
     | .error f => .fault f
     | .ok frame => .next ((s.emit (.reply s.txLen frame)).setFsm .idle))

/-- TX_FAIL (R235): `raise Fatal(CHAN_TX)`. -/
def execTxFail (s : State) : Outcome := onFsm .send s (.next (s.raiseFatal codeChanTx))

/-- RESET (70_reset_and_hazards.md R300): enabled in every state. -/
def execReset (s : State) : Outcome := .next s.doReset

end Sys2Proof.Machine
end

