-- ==== Sys2Proof/Machine/Dispatch.lean ====
section
/-! DEFINITION. One arm per row of spec/opcode_table.json. -/

namespace Sys2Proof.Machine

def exec (i : Instr) (s : State) : Host.Outcome State Fault Refusal :=
  match i with
  | .frmRunt => Sys2Proof.Machine.execFrmRunt s
  | .ipTrunc => Sys2Proof.Machine.execIpTrunc s
  | .ipBadver => Sys2Proof.Machine.execIpBadver s
  | .ipBadihl => Sys2Proof.Machine.execIpBadihl s
  | .ipShorthdr => Sys2Proof.Machine.execIpShorthdr s
  | .ipBadlen => Sys2Proof.Machine.execIpBadlen s
  | .ipNontcp => Sys2Proof.Machine.execIpNontcp s
  | .tcpTrunc => Sys2Proof.Machine.execTcpTrunc s
  | .tcpBadoff => Sys2Proof.Machine.execTcpBadoff s
  | .tcpShorthdr => Sys2Proof.Machine.execTcpShorthdr s
  | .tcpNosyn => Sys2Proof.Machine.execTcpNosyn s
  | .tcpDone => Sys2Proof.Machine.execTcpDone s
  | .tcpReply => Sys2Proof.Machine.execTcpReply s
  | .rxFrame n bytes => Sys2Proof.Machine.execRxFrame n bytes s
  | .rxFail => Sys2Proof.Machine.execRxFail s
  | .txOk => Sys2Proof.Machine.execTxOk s
  | .txFail => Sys2Proof.Machine.execTxFail s
  | .reset => Sys2Proof.Machine.execReset s

end Sys2Proof.Machine
end

