-- ==== Sys2Proof/Machine/Fetch.lean ====
section
/-! DEFINITION. What the next step runs (00_scope.md R6, 46_validation_fsm.md R220 to R224), and the placing of one instruction where
the next step finds it. -/

namespace Sys2Proof.Machine

/-- What `fetch` finds: an instruction and the state it runs in, or why nothing runs. -/
inductive Fetched where
  | run (i : Instr) (s : State)
  | stop (f : Fault)
  | noMove (r : Refusal)
  deriving DecidableEq, Repr

/-- The block's turn: EXEC in PROC, which decodes the held frame to its class (R222, R224). In IDLE, SEND and HALT the block has
no step (R220): it waits for the host (R228; log entry 4). -/
def fetchBlock (s : State) : Fetched :=
  if s.fsm = .proc then
    match fcv s with
    | .error f => .stop f
    | .ok v =>
      match decode (.frame v) with
      | .error e => .noMove (.rejected e)
      | .ok i => .run i s
  else .noMove .awaitsHost

/-- The host's turn: the word on its port (30_encoding.md R99). -/
def fetchHost (w : HostWord) (s : State) : Fetched :=
  match decode (.host w) with
  | .error e => .noMove (.rejected e)
  | .ok i => .run i s

/-- The next turn is taken off the schedule; when none is left it is the block's (log entry 1). -/
def fetch (s : State) : Fetched :=
  match s.turns with
  | [] => fetchBlock s
  | .block :: ts => fetchBlock { s with turns := ts }
  | .host w :: ts => fetchHost w { s with turns := ts }

/-- 20 bytes of IPv4 header with the given first byte, total length and protocol; the rest 0 (30_encoding.md R72). -/
def sampleIp (b0 : Byte) (tot : BitVec 16) (proto : Byte) : List Byte :=
  [b0, 0x00] ++ bytes16 tot ++ [0, 0, 0, 0, 0, proto, 0, 0] ++ bytes32 0 ++ bytes32 0

/-- 20 bytes of TCP header with the given data-offset byte and flags; the rest 0 (30_encoding.md R80). -/
def sampleTcp (b12 flags : Byte) : List Byte :=
  bytes32 0 ++ bytes32 0 ++ bytes32 0 ++ [b12, flags, 0, 0, 0, 0, 0, 0]

/-- A frame prefix and a packet. -/
def sampleFrame (packet : List Byte) : List Byte := [0, 0, 0x08, 0] ++ packet

/-- A frame of each class (30_encoding.md R96), for `placeInstr`; a host event holds no frame. -/
def frameOf : Instr → Option (List Byte)
  | .frmRunt => some [0, 0, 0x08]
  | .ipTrunc => some (sampleFrame [])
  | .ipBadver => some (sampleFrame (sampleIp 0x60 20 0))
  | .ipBadihl => some (sampleFrame (sampleIp 0x44 20 0))
  | .ipShorthdr => some (sampleFrame (sampleIp 0x46 24 0))
  | .ipBadlen => some (sampleFrame (sampleIp 0x45 16 0))
  | .ipNontcp => some (sampleFrame (sampleIp 0x45 20 17))
  | .tcpTrunc => some (sampleFrame (sampleIp 0x45 20 6))
  | .tcpBadoff => some (sampleFrame (sampleIp 0x45 40 6 ++ sampleTcp 0x40 0x02))
  | .tcpShorthdr => some (sampleFrame (sampleIp 0x45 40 6 ++ sampleTcp 0x80 0x02))
  | .tcpNosyn => some (sampleFrame (sampleIp 0x45 40 6 ++ sampleTcp 0x50 0x10))
  | .tcpDone => some (sampleFrame (sampleIp 0x45 40 6 ++ sampleTcp 0x50 0x02))
  | .tcpReply => some (sampleFrame (sampleIp 0x45 40 6 ++ sampleTcp 0x50 0x02))
  | .rxFrame _ _ | .rxFail | .txOk | .txFail | .reset => none

/-- The FSM state in which an instruction is placed: one that enables it (46_validation_fsm.md R220). -/
def placeFsm (i : Instr) (x : Fsm) : Fsm :=
  match i with
  | .rxFrame _ _ | .rxFail => .idle
  | .txOk | .txFail => .send
  | .reset => x
  | .frmRunt | .ipTrunc | .ipBadver | .ipBadihl | .ipShorthdr | .ipBadlen | .ipNontcp | .tcpTrunc | .tcpBadoff
  | .tcpShorthdr | .tcpNosyn | .tcpDone | .tcpReply => .proc

/-- `responded` as the class needs it: 1 for TCP_DONE, 0 for TCP_REPLY (43_responder.md R160), untouched for the rest. -/
def placeResponded (i : Instr) (r : Bool) : Bool :=
  if i = .tcpDone then true else if i = .tcpReply then false else r

/-- `REQUIRE_SYN` as the class needs it: true for TCP_NOSYN (43_responder.md R161), untouched for the rest. -/
def placeCfg (i : Instr) (c : Params) : Params :=
  if i = .tcpNosyn then { c with requireSyn := true } else c

/-- The state whose very next step runs `i` (log entry 10): for a frame class, PROC holding a frame of that class on the block's
turn; for a host event, a state that enables it with the event's word on the host's port. -/
def placeInstr (i : Instr) (s : State) : State :=
  match frameOf i with
  | some bs =>
    { s with
      fsm := placeFsm i s.fsm
      responded := placeResponded i s.responded
      rxLen := BitVec.ofNat 11 bs.length
      rx := s.rx.writeBytes 0 bs
      cfg := placeCfg i s.cfg
      turns := .block :: s.turns }
  | none =>
    match encode i with
    | .frame _ => s
    | .host w => { s with fsm := placeFsm i s.fsm, turns := .host w :: s.turns }

end Sys2Proof.Machine
end

