-- ==== Sys2Proof/Machine/Step.lean ====
section
/-! DEFINITION. One step (00_scope.md R5, R14): fetch, then the meaning of what was fetched. -/

namespace Sys2Proof.Machine

/-- One step of the machine. -/
def step (s : State) : Host.Outcome State Fault Refusal :=
  match fetch s with
  | .run i s' => exec i s'
  | .stop f => .fault f
  | .noMove r => .refused r

/-- `s` with the instruction of one opcode-table word placed where the next step runs it (`placeInstr`). -/
def State.withFetchWord (s : State) (nbits w : Nat) : State :=
  match decodeTableWord nbits w with
  | none => s
  | some i => placeInstr i s

end Sys2Proof.Machine
end

