-- ==== Sys2Proof/Safety.lean ====
section
/-! DEFINITION. The terms in which claims about the machine are made: which states are legal, which frame a state holds and what its
fields are, what a run must not contain, and the whole of EXEC on one frame (46_validation_fsm.md R224) as one function. -/

namespace Sys2Proof

/-! ### Frames as byte sequences (30_encoding.md R70 to R85) -/

/-- The byte at offset `i` of a frame. Past its end, where a frame has no byte, it is 0 (DESIGN CHOICE, log entry 18). -/
def Frame.byte (bs : List Byte) (i : Nat) : Byte := bs.getD i 0

/-- `be16` at offset `i` of a frame (00_scope.md R11). -/
def Frame.half (bs : List Byte) (i : Nat) : BitVec 16 := Machine.be16 (Frame.byte bs i) (Frame.byte bs (i + 1))

/-- `be32` at offset `i` of a frame (R11). -/
def Frame.word (bs : List Byte) (i : Nat) : BitVec 32 := Frame.half bs i ++ Frame.half bs (i + 2)

/-- The IPv4 header of a frame (41_ipv4_parser.md R121 to R127, 30_encoding.md R72). -/
def Frame.ip (bs : List Byte) : Machine.IpHeader where
  version := (Frame.byte bs 4).extractLsb' 4 4
  ihl := (Frame.byte bs 4).extractLsb' 0 4
  tos := Frame.byte bs 5
  totalLength := Frame.half bs 6
  ident := Frame.half bs 8
  reservedFlag := (Frame.half bs 10).extractLsb' 15 1
  dontFragment := (Frame.half bs 10).extractLsb' 14 1
  moreFragments := (Frame.half bs 10).extractLsb' 13 1
  fragmentOffset := (Frame.half bs 10).extractLsb' 0 13
  ttl := Frame.byte bs 12
  protocol := Frame.byte bs 13
  hdrChecksum := Frame.half bs 14
  src := Frame.word bs 16
  dst := Frame.word bs 20

/-- The TCP header at frame offset `b` (42_tcp_parser.md R140 to R145, 30_encoding.md R80). -/
def Frame.tcpAt (bs : List Byte) (b : Nat) : Machine.TcpHeader where
  sport := Frame.half bs b
  dport := Frame.half bs (b + 2)
  seq := Frame.word bs (b + 4)
  ack := Frame.word bs (b + 8)
  doff := (Frame.byte bs (b + 12)).extractLsb' 4 4
  reserved := (Frame.byte bs (b + 12)).extractLsb' 1 3
  ns := (Frame.byte bs (b + 12)).extractLsb' 0 1
  flags := Frame.byte bs (b + 13)
  window := Frame.half bs (b + 14)
  checksum := Frame.half bs (b + 16)
  urgent := Frame.half bs (b + 18)

/-- The TCP header of a frame: it starts at `ip.payload_start` (R131). -/
def Frame.tcp (bs : List Byte) : Machine.TcpHeader := Frame.tcpAt bs (Frame.ip bs).payloadStart

/-- FCV bits 0 to 5 are 0: the IPv4 header parses (41_ipv4_parser.md R128). -/
structure Frame.IpOk (bs : List Byte) : Prop where
  len : 24 ≤ bs.length
  version : (Frame.ip bs).version = 4
  ihl : 5 ≤ (Frame.ip bs).ihl.toNat
  hdrFits : (Frame.ip bs).hlen ≤ bs.length - 4
  totLow : (Frame.ip bs).hlen ≤ (Frame.ip bs).totalLength.toNat
  totHigh : (Frame.ip bs).totalLength.toNat ≤ bs.length - 4

/-- FCV bits 0 to 7 are 0: the frame carries TCP and its fixed header can be read (43_responder.md R161, 42_tcp_parser.md R146). -/
structure Frame.TcpHeld (bs : List Byte) : Prop where
  ip : Frame.IpOk bs
  proto : (Frame.ip bs).protocol = 6
  fixed : 20 ≤ (Frame.ip bs).payloadLen

/-- FCV bits 0 to 9 are 0: the TCP header parses (42_tcp_parser.md R146). -/
structure Frame.TcpOk (bs : List Byte) : Prop where
  held : Frame.TcpHeld bs
  doff : 5 ≤ (Frame.tcp bs).doff.toNat
  hdrFits : (Frame.tcp bs).hlen ≤ (Frame.ip bs).payloadLen

/-- The initiation test passes (43_responder.md R161): SYN is set, or `REQUIRE_SYN` is false. -/
def Frame.initiates (requireSyn : Bool) (bs : List Byte) : Bool := !requireSyn || (Frame.tcp bs).syn

/-- The 20 bytes of an IPv4 fixed header (30_encoding.md R72), for claims about recovery (41_ipv4_parser.md R133). -/
def Frame.ipBytes (h : Machine.IpHeader) : List Byte :=
  [h.version ++ h.ihl, h.tos] ++ Machine.bytes16 h.totalLength ++ Machine.bytes16 h.ident ++
    Machine.bytes16 (h.reservedFlag ++ h.dontFragment ++ h.moreFragments ++ h.fragmentOffset) ++
    [h.ttl, h.protocol] ++ Machine.bytes16 h.hdrChecksum ++ Machine.bytes32 h.src ++ Machine.bytes32 h.dst

/-- The 20 bytes of a TCP fixed header (30_encoding.md R80), for claims about recovery (42_tcp_parser.md R151). -/
def Frame.tcpBytes (t : Machine.TcpHeader) : List Byte :=
  Machine.bytes16 t.sport ++ Machine.bytes16 t.dport ++ Machine.bytes32 t.seq ++ Machine.bytes32 t.ack ++
    [t.doff ++ t.reserved ++ t.ns, t.flags] ++ Machine.bytes16 t.window ++ Machine.bytes16 t.checksum ++ Machine.bytes16 t.urgent

namespace Machine

/-! ### States -/

/-- `RX[0..rx_len)` is the frame `bs` and the block is in PROC (10_state.md R22, 20_memory.md R62). -/
structure HoldsFrame (s : State) (bs : List Byte) : Prop where
  inProc : s.fsm = .proc
  len : s.rxLen.toNat = bs.length
  short : bs.length ≤ 1504
  bytes : ∀ i, i < bs.length → s.rx.read i = bs[i]?

/-- The first `n` bytes of a buffer have been written. -/
def Memory.written (m : Memory) (n : Nat) : Prop := ∀ i, i < n → ∃ b, m.read i = some b

/-- The legal states: canonical buffers (20_memory.md R50), lengths and fault codes in their legal ranges (10_state.md R20,
60_exceptions.md R271), a fault code exactly in HALT (R24), a whole frame in PROC (R62), a whole reply in SEND (R26, R160). -/
structure Legal (s : State) : Prop where
  rxWf : s.rx.wf 1504
  txWf : s.tx.wf s.cfg.txCap
  rxLenLe : s.rxLen.toNat ≤ 1504
  txLenLe : s.txLen.toNat ≤ 1500
  faultLe : s.fault.toNat ≤ 4
  faultHalt : s.fault = 0 ↔ s.fsm ≠ .halt
  procFrame : s.fsm = .proc → s.rx.written s.rxLen.toNat
  sendLen : s.fsm = .send → s.txLen = 44
  sendFrame : s.fsm = .send → s.tx.written 44
  sendCap : s.fsm = .send → 44 ≤ s.cfg.txCap
  sendResponded : s.fsm = .send → s.responded = true

/-- What the diagnostic port has carried after `recs` more (46_validation_fsm.md R250 to R252). -/
def diagAfter (s : State) (recs : List DiagRec) : List DiagRec :=
  if s.cfg.diagEnable then s.diag ++ recs else s.diag

/-- The state after `discard(cls)` once `recs` have been sent (46_validation_fsm.md R225, R226): IDLE, and nothing else but the
outputs. -/
def afterDiscard (s : State) (cls : BitVec 4) (recs : List DiagRec) : State :=
  { s with fsm := .idle, diag := diagAfter s recs, labels := s.labels ++ [{ cls := cls, fatal := none }] }

/-- The state after a reply has been built (43_responder.md R170, 46_validation_fsm.md R249). -/
def afterReply (s : State) (frame : List Byte) (recs : List DiagRec) : State :=
  { s with
    fsm := .send
    responded := true
    tx := s.tx.writeBytes 0 frame
    txLen := 44
    diag := diagAfter s recs
    labels := s.labels ++ [{ cls := 12, fatal := none }] }

/-- The state after a fatal EXEC step (60_exceptions.md R274, 46_validation_fsm.md R225). -/
def afterFatalReply (s : State) (code : BitVec 3) (recs : List DiagRec) : State :=
  { s with
    fsm := .halt
    fault := code
    diag := diagAfter s recs
    labels := s.labels ++ [{ cls := 12, fatal := some code }] }

/-- The 44 bytes of the reply to the request frame `bs` (30_encoding.md R89), byte by byte, with the two checksums given. -/
def replyBytes (c : Params) (bs : List Byte) (ipCk tcpCk : BitVec 16) : List Byte :=
  let h := Frame.ip bs
  let t := Frame.tcp bs
  [Frame.byte bs 0, Frame.byte bs 1, Frame.byte bs 2, Frame.byte bs 3, 0x45, c.replyTos, 0x00, 0x28] ++
    bytes16 c.replyIpId ++ bytes16 c.replyIpFlagsFrag ++ [0x40, 0x06] ++ bytes16 ipCk ++ bytes32 h.dst ++ bytes32 h.src ++
    bytes16 t.dport ++ bytes16 t.sport ++ [0x00, 0x00, 0x00, 0x00] ++ bytes32 (t.seq + 1) ++ [0x50, 0x12] ++
    bytes16 t.window ++ bytes16 tcpCk ++ [0x00, 0x00]

/-- `r.ip_checksum` (44_reply_builder.md R184): over the reply's IPv4 header with its checksum field zero. -/
def replyIpCk (c : Params) (bs : List Byte) : BitVec 16 :=
  csum16 (((replyBytes c bs 0 0).drop 4).take 20)

/-- `r.tcp_checksum` (44_reply_builder.md R185, 45_checksum.md R206): over the pseudo-header and the reply's TCP header with its
checksum field zero. -/
def replyTcpCk (c : Params) (bs : List Byte) : BitVec 16 :=
  csum16 (pseudoHeader (Frame.ip bs).dst (Frame.ip bs).src 6 20 ++ (replyBytes c bs 0 0).drop 24)

/-- The reply frame to the request frame `bs` (30_encoding.md R89). -/
def replyFrame (c : Params) (bs : List Byte) : List Byte := replyBytes c bs (replyIpCk c bs) (replyTcpCk c bs)

/-- The two records EXEC sends for a frame whose headers parse (46_validation_fsm.md R251). -/
def ipv4RecordOf (bs : List Byte) : DiagRec :=
  .ipv4 (Frame.ip bs).src (Frame.ip bs).dst (BitVec.ofNat 16 (Frame.ip bs).payloadLen) (Frame.ip bs).protocol (Frame.ip bs).ttl

/-- The DIAG_TCP record of a frame (46_validation_fsm.md R251). -/
def tcpRecordOf (bs : List Byte) : DiagRec :=
  .tcp (Frame.ip bs).src (Frame.tcp bs).sport (Frame.ip bs).dst (Frame.tcp bs).dport
    (BitVec.ofNat 16 ((Frame.ip bs).payloadLen - (Frame.tcp bs).hlen))

/-- EXEC of 46_validation_fsm.md R224 as one function of the held frame `bs`, its lines in order. The checksum input failure has no
line: it never occurs (45_checksum.md R207). -/
def wholeExec (s : State) (bs : List Byte) : State :=
  let h := Frame.ip bs
  let t := Frame.tcp bs
  if bs.length < 4 then afterDiscard s 0 [.malformed 0]
  else if bs.length - 4 < 20 then afterDiscard s 1 [.malformed 1]
  else if h.version ≠ 4 then afterDiscard s 2 [.malformed 2]
  else if h.ihl.toNat < 5 then afterDiscard s 3 [.malformed 3]
  else if bs.length - 4 < h.hlen then afterDiscard s 4 [.malformed 4]
  else if h.totalLength.toNat < h.hlen ∨ bs.length - 4 < h.totalLength.toNat then afterDiscard s 5 [.malformed 5]
  else if h.protocol ≠ 6 then afterDiscard s 6 [ipv4RecordOf bs]
  else if h.payloadLen < 20 then afterDiscard s 7 [ipv4RecordOf bs, .malformed 7]
  else if t.doff.toNat < 5 then afterDiscard s 8 [ipv4RecordOf bs, .malformed 8]
  else if h.payloadLen < t.hlen then afterDiscard s 9 [ipv4RecordOf bs, .malformed 9]
  else if s.cfg.requireSyn ∧ t.syn = false then afterDiscard s 10 [ipv4RecordOf bs, tcpRecordOf bs]
  else if s.responded then afterDiscard s 11 [ipv4RecordOf bs, tcpRecordOf bs]
  else if s.cfg.txCap < 44 then afterFatalReply s 4 [ipv4RecordOf bs, tcpRecordOf bs]
  else afterReply s (replyFrame s.cfg bs) [ipv4RecordOf bs, tcpRecordOf bs]

/-! ### Runs -/

/-- The instruction is a frame class (30_encoding.md R96), not a host event or RESET. -/
def isFrameClass : Instr → Bool
  | .frmRunt | .ipTrunc | .ipBadver | .ipBadihl | .ipShorthdr | .ipBadlen | .ipNontcp | .tcpTrunc | .tcpBadoff
  | .tcpShorthdr | .tcpNosyn | .tcpDone | .tcpReply => true
  | .rxFrame _ _ | .rxFail | .txOk | .txFail | .reset => false

/-- The instruction is a frame class whose verdict is discard or skip (30_encoding.md R96, R97). -/
def isDropClass (i : Instr) : Bool := isFrameClass i && decide (i ≠ .tcpReply)

/-- The frame classes in the order of their class numbers 0 to 12 (30_encoding.md R96). -/
def classRows : List Instr :=
  [.frmRunt, .ipTrunc, .ipBadver, .ipBadihl, .ipShorthdr, .ipBadlen, .ipNontcp, .tcpTrunc, .tcpBadoff, .tcpShorthdr, .tcpNosyn,
    .tcpDone, .tcpReply]

/-- The steps enabled in each FSM state (46_validation_fsm.md R220). -/
def enabledIn (i : Instr) (x : Fsm) : Bool :=
  match i with
  | .frmRunt | .ipTrunc | .ipBadver | .ipBadihl | .ipShorthdr | .ipBadlen | .ipNontcp | .tcpTrunc | .tcpBadoff
  | .tcpShorthdr | .tcpNosyn | .tcpDone | .tcpReply => x = .proc
  | .rxFrame _ _ | .rxFail => x = .idle
  | .txOk | .txFail => x = .send
  | .reset => true

/-- The next turn is not the host's: the block moves. -/
def blockTurn (s : State) : Prop := ∀ w, s.turns.head? ≠ some (.host w)

/-- The state with its next turn taken off the schedule. -/
def popTurn (s : State) : State := { s with turns := s.turns.tail }

/-- The schedule asserts no RESET. -/
def noReset (ts : List Turn) : Prop := ∀ w, Turn.host w ∈ ts → w.rst = false

/-- How many replies have been built: EXEC labels of class 12 that are not fatal (46_validation_fsm.md R225). -/
def replies (s : State) : Nat := s.labels.countP (fun l => decide (l.cls = 12) && decide (l.fatal = none))

/-- One reply is still to come as long as the block has not responded (43_responder.md R160). -/
def repliesLeft (s : State) : Nat := if s.responded then 0 else 1

end Machine
end Sys2Proof
end

