-- ==== Sys2Proof/Certificates/Slice0/Obligations.lean ====
section
/-! DEFINITION. The statements for the provers. They hold for every configuration of 00_scope.md R7 unless they name one. -/

open Sys2Proof Sys2Proof.Machine

/-! ### Encoding and the step -/

/-- Words of the three formats written out from the spec decode to the instruction they stand for (30_encoding.md R96, R99):
the match column of R96, two words with don't-care bits above the lowest 1, and the event codes. -/
def Obligations.SpecWordsDecode : Prop :=
  decode (.frame 0x001) = .ok .frmRunt ∧ decode (.frame 0x002) = .ok .ipTrunc ∧ decode (.frame 0x004) = .ok .ipBadver ∧
  decode (.frame 0x008) = .ok .ipBadihl ∧ decode (.frame 0x010) = .ok .ipShorthdr ∧ decode (.frame 0x020) = .ok .ipBadlen ∧
  decode (.frame 0x040) = .ok .ipNontcp ∧ decode (.frame 0x080) = .ok .tcpTrunc ∧ decode (.frame 0x100) = .ok .tcpBadoff ∧
  decode (.frame 0x200) = .ok .tcpShorthdr ∧ decode (.frame 0x400) = .ok .tcpNosyn ∧ decode (.frame 0x800) = .ok .tcpDone ∧
  decode (.frame 0x000) = .ok .tcpReply ∧ decode (.frame 0xFE0) = .ok .ipBadlen ∧ decode (.frame 0xC00) = .ok .tcpNosyn ∧
  decode (.host { rst := false, hev := 0b00, n := 3, bytes := [0x00, 0x00, 0x08] }) = .ok (.rxFrame 3 [0x00, 0x00, 0x08]) ∧
  decode (.host { rst := false, hev := 0b01, n := 0, bytes := [] }) = .ok .rxFail ∧
  decode (.host { rst := false, hev := 0b10, n := 0, bytes := [] }) = .ok .txOk ∧
  decode (.host { rst := false, hev := 0b11, n := 0, bytes := [] }) = .ok .txFail ∧
  decode (.host { rst := true, hev := 0b00, n := 0, bytes := [] }) = .ok .reset

/-- Decoding the encoding of any well-formed instruction gives it back: no operand bit is dropped. -/
def Obligations.DecodeEncode : Prop :=
  ∀ i : Instr, i.wellFormed = true → decode (encode i) = .ok i

/-- The match/mask form of the class table (30_encoding.md R96): row `k < 12` matches when the low `k + 1` bits of the vector are
`1 << k`, row 12 when the vector is 0; the priority decode is the one row that matches, and some row always does. -/
def Obligations.FcvRowsMatch : Prop :=
  ∀ v : BitVec 12,
    (∀ k : Nat, k < 12 → ∀ i, classRows[k]? = some i →
      (decodeFcv v = i ↔ v &&& (BitVec.ofNat 12 (2 ^ (k + 1) - 1)) = BitVec.ofNat 12 (2 ^ k))) ∧
    (decodeFcv v = .tcpReply ↔ v &&& 0xFFF = 0) ∧ decodeFcv v ∈ classRows

/-- RESET has priority (46_validation_fsm.md R221): whatever else the host's word carries and whatever the FSM state, a word that
asserts `rst` is a RESET step. That the host's words stand in `turns` is the model's choice (log entry 1). -/
def Obligations.ResetInputWins : Prop :=
  ∀ (s : State) (w : HostWord) (ts : List Turn), s.turns = .host w :: ts → w.rst = true →
    decode (.host w) = .ok .reset ∧ step s = exec .reset { s with turns := ts }

/-- A step runs the decoded instruction. On the host's turn it is what the host's word decodes to; on the block's turn in PROC it is
the frame class that the frame condition vector decodes to. Beside it the step only takes the turn off the schedule, which is the
model's own field (log entry 1). A host word is rejected exactly when it is an RX_FRAME with `n > 1504` or with a byte count other
than `n` (R232, 70_reset_and_hazards.md R312), and a step on such a turn is refused, by the model's own name (log entry 12). -/
def Obligations.StepRunsDecoded : Prop :=
  (∀ (s : State) (w : HostWord) (ts : List Turn) (i : Instr), s.turns = .host w :: ts → decode (.host w) = .ok i →
    step s = exec i { s with turns := ts }) ∧
  (∀ (s : State) (v : BitVec 12) (i : Instr), blockTurn s → s.fsm = .proc → fcv s = .ok v → decode (.frame v) = .ok i →
    step s = exec i (popTurn s)) ∧
  (∀ w : HostWord, (∃ e, decode (.host w) = .error e) ↔
    w.rst = false ∧ w.hev = 0 ∧ (1504 < w.n.toNat ∨ w.bytes.length ≠ w.n.toNat)) ∧
  (∀ (s : State) (w : HostWord) (ts : List Turn) (e : DecodeError), s.turns = .host w :: ts → decode (.host w) = .error e →
    step s = .refused (.rejected e))

/-- On the block's turn outside PROC no step is enabled and the machine waits for the host (46_validation_fsm.md R220, R228): the
refusal `awaitsHost`, the model's own name for it (log entry 4). -/
def Obligations.BlockTurnAwaitsHost : Prop :=
  ∀ s : State, blockTurn s → s.fsm ≠ .proc → step s = .refused .awaitsHost

/-- Every frame decodes to exactly one class (46_validation_fsm.md R222): of all frame classes exactly one has a next state on a held
frame, and it is the one its frame condition vector decodes to. That the others are refused is the model's choice (log entry 11). -/
def Obligations.ExactlyOneClassRuns : Prop :=
  ∀ (s : State) (bs : List Byte), HoldsFrame s bs →
    ∃ v, fcv s = .ok v ∧ ∀ i, isFrameClass i = true → ((∃ t, exec i s = .next t) ↔ i = decodeFcv v)

/-! ### The frame classes (46_validation_fsm.md R237 to R249), one statement each: the match of the opcode row, and the next state -/

/-- FRM_RUNT (R237, 40_frame_codec.md R111). -/
def Obligations.FrmRuntDiscards : Prop :=
  ∀ (s : State) (bs : List Byte), HoldsFrame s bs → bs.length < 4 →
    (∃ v, fcv s = .ok v ∧ v &&& 0x001 = 0x001) ∧ exec .frmRunt s = .next (afterDiscard s 0 [.malformed 0])

/-- IP_TRUNC (R238). -/
def Obligations.IpTruncDiscards : Prop :=
  ∀ (s : State) (bs : List Byte), HoldsFrame s bs → 4 ≤ bs.length → bs.length - 4 < 20 →
    (∃ v, fcv s = .ok v ∧ v &&& 0x003 = 0x002) ∧ exec .ipTrunc s = .next (afterDiscard s 1 [.malformed 1])

/-- IP_BADVER (R239). -/
def Obligations.IpBadverDiscards : Prop :=
  ∀ (s : State) (bs : List Byte), HoldsFrame s bs → 24 ≤ bs.length → (Frame.byte bs 4).extractLsb' 4 4 ≠ 4 →
    (∃ v, fcv s = .ok v ∧ v &&& 0x007 = 0x004) ∧ exec .ipBadver s = .next (afterDiscard s 2 [.malformed 2])

/-- IP_BADIHL (R240). -/
def Obligations.IpBadihlDiscards : Prop :=
  ∀ (s : State) (bs : List Byte), HoldsFrame s bs → 24 ≤ bs.length → (Frame.byte bs 4).extractLsb' 4 4 = 4 →
    ((Frame.byte bs 4).extractLsb' 0 4).toNat < 5 →
    (∃ v, fcv s = .ok v ∧ v &&& 0x00F = 0x008) ∧ exec .ipBadihl s = .next (afterDiscard s 3 [.malformed 3])

/-- IP_SHORTHDR (R241). -/
def Obligations.IpShorthdrDiscards : Prop :=
  ∀ (s : State) (bs : List Byte), HoldsFrame s bs → 24 ≤ bs.length → (Frame.ip bs).version = 4 → 5 ≤ (Frame.ip bs).ihl.toNat →
    bs.length - 4 < 4 * (Frame.ip bs).ihl.toNat →
    (∃ v, fcv s = .ok v ∧ v &&& 0x01F = 0x010) ∧ exec .ipShorthdr s = .next (afterDiscard s 4 [.malformed 4])

/-- IP_BADLEN (R242). -/
def Obligations.IpBadlenDiscards : Prop :=
  ∀ (s : State) (bs : List Byte), HoldsFrame s bs → 24 ≤ bs.length → (Frame.ip bs).version = 4 → 5 ≤ (Frame.ip bs).ihl.toNat →
    (Frame.ip bs).hlen ≤ bs.length - 4 →
    ((Frame.half bs 6).toNat < (Frame.ip bs).hlen ∨ bs.length - 4 < (Frame.half bs 6).toNat) →
    (∃ v, fcv s = .ok v ∧ v &&& 0x03F = 0x020) ∧ exec .ipBadlen s = .next (afterDiscard s 5 [.malformed 5])

/-- IP_NONTCP (R243). -/
def Obligations.IpNontcpSkips : Prop :=
  ∀ (s : State) (bs : List Byte), HoldsFrame s bs → Frame.IpOk bs → Frame.byte bs 13 ≠ 6 →
    (∃ v, fcv s = .ok v ∧ v &&& 0x07F = 0x040) ∧ exec .ipNontcp s = .next (afterDiscard s 6 [ipv4RecordOf bs])

/-- TCP_TRUNC (R244). -/
def Obligations.TcpTruncDiscards : Prop :=
  ∀ (s : State) (bs : List Byte), HoldsFrame s bs → Frame.IpOk bs → Frame.byte bs 13 = 6 →
    (Frame.half bs 6).toNat - (Frame.ip bs).hlen < 20 →
    (∃ v, fcv s = .ok v ∧ v &&& 0x0FF = 0x080) ∧ exec .tcpTrunc s = .next (afterDiscard s 7 [ipv4RecordOf bs, .malformed 7])

/-- TCP_BADOFF (R245). -/
def Obligations.TcpBadoffDiscards : Prop :=
  ∀ (s : State) (bs : List Byte), HoldsFrame s bs → Frame.TcpHeld bs → (Frame.tcp bs).doff.toNat < 5 →
    (∃ v, fcv s = .ok v ∧ v &&& 0x1FF = 0x100) ∧ exec .tcpBadoff s = .next (afterDiscard s 8 [ipv4RecordOf bs, .malformed 8])

/-- TCP_SHORTHDR (R246). -/
def Obligations.TcpShorthdrDiscards : Prop :=
  ∀ (s : State) (bs : List Byte), HoldsFrame s bs → Frame.TcpHeld bs → 5 ≤ (Frame.tcp bs).doff.toNat →
    (Frame.ip bs).payloadLen < 4 * (Frame.tcp bs).doff.toNat →
    (∃ v, fcv s = .ok v ∧ v &&& 0x3FF = 0x200) ∧ exec .tcpShorthdr s = .next (afterDiscard s 9 [ipv4RecordOf bs, .malformed 9])

/-- TCP_NOSYN (R247). With `REQUIRE_SYN = false` the class is never reached. -/
def Obligations.TcpNosynSkips : Prop :=
  ∀ (s : State) (bs : List Byte), HoldsFrame s bs →
    (Frame.TcpOk bs → s.cfg.requireSyn = true → (Frame.tcp bs).flags.getLsbD 1 = false →
      (∃ v, fcv s = .ok v ∧ v &&& 0x7FF = 0x400) ∧ exec .tcpNosyn s = .next (afterDiscard s 10 [ipv4RecordOf bs, tcpRecordOf bs])) ∧
    (s.cfg.requireSyn = false → ∃ v, fcv s = .ok v ∧ decodeFcv v ≠ .tcpNosyn)

/-- TCP_DONE (R248, 43_responder.md R160). -/
def Obligations.TcpDoneSkips : Prop :=
  ∀ (s : State) (bs : List Byte), HoldsFrame s bs → Frame.TcpOk bs → Frame.initiates s.cfg.requireSyn bs = true →
    s.responded = true →
    (∃ v, fcv s = .ok v ∧ v &&& 0xFFF = 0x800) ∧ exec .tcpDone s = .next (afterDiscard s 11 [ipv4RecordOf bs, tcpRecordOf bs])

/-- TCP_REPLY (R249, 43_responder.md R170, 44_reply_builder.md R188): the reply frame of 30_encoding.md R89 into `TX[0..44)`,
`tx_len <- 44`, `responded <- 1`, SEND, and two diagnostic records. -/
def Obligations.TcpReplyOffers : Prop :=
  ∀ (s : State) (bs : List Byte), HoldsFrame s bs → Frame.TcpOk bs → Frame.initiates s.cfg.requireSyn bs = true →
    s.responded = false → 44 ≤ s.cfg.txCap →
    (∃ v, fcv s = .ok v ∧ v &&& 0xFFF = 0x000) ∧
      exec .tcpReply s = .next (afterReply s (replyFrame s.cfg bs) [ipv4RecordOf bs, tcpRecordOf bs])

/-- The capacity check (44_reply_builder.md R187): with `TX_CAP < 44` the same frames halt the block with BUF_SMALL (code 4), and
nothing of `TX`, `tx_len` and `responded` is written. -/
def Obligations.TcpReplyTooSmallHalts : Prop :=
  ∀ (s : State) (bs : List Byte), HoldsFrame s bs → Frame.TcpOk bs → Frame.initiates s.cfg.requireSyn bs = true →
    s.responded = false → s.cfg.txCap < 44 →
    exec .tcpReply s = .next { s with
      fsm := .halt, fault := 4, diag := diagAfter s [ipv4RecordOf bs, tcpRecordOf bs],
      labels := s.labels ++ [{ cls := 12, fatal := some 4 }] }

/-- The reply's fields, read back from the transmit port (43_responder.md R162 to R168): ports and addresses inverted, `seq + 1`
acknowledged modulo 2^32, sequence 0, window copied, flags 0x12, TTL 64, protocol 6; and the prefix echoed (40_frame_codec.md R113). -/
def Obligations.ReplyFieldsDerived : Prop :=
  ∀ (s : State) (bs : List Byte), HoldsFrame s bs → Frame.TcpOk bs → Frame.initiates s.cfg.requireSyn bs = true →
    s.responded = false → 44 ≤ s.cfg.txCap →
    ∃ t f, exec .tcpReply s = .next t ∧ txFrame t = .ok f ∧ f.length = 44 ∧ f.take 4 = bs.take 4 ∧
      Frame.half f 24 = (Frame.tcp bs).dport ∧ Frame.half f 26 = (Frame.tcp bs).sport ∧
      Frame.word f 32 = BitVec.ofNat 32 (((Frame.tcp bs).seq.toNat + 1) % 2 ^ 32) ∧ Frame.word f 28 = 0 ∧
      Frame.half f 38 = (Frame.tcp bs).window ∧ Frame.byte f 37 = 0x12 ∧
      Frame.word f 16 = (Frame.ip bs).dst ∧ Frame.word f 20 = (Frame.ip bs).src ∧
      Frame.byte f 12 = 64 ∧ Frame.byte f 13 = 6

/-! ### The host events (46_validation_fsm.md R232 to R236) and RESET (70_reset_and_hazards.md R300) -/

/-- RX_FRAME (R232): enabled in IDLE; `RX[0..n)` gets the bytes, `RX[n..)` keeps what it held, `rx_len <- n`, PROC, all else as
before. A frame with `n > 1504` is not delivered; `n = 0` is, and decodes to FRM_RUNT. -/
def Obligations.RxFrameReceives : Prop :=
  (∀ (s : State) (n : BitVec 11) (bytes : List Byte), s.fsm = .idle → n.toNat ≤ 1504 → bytes.length = n.toNat →
    ∃ m, exec (.rxFrame n bytes) s = .next { s with rx := m, rxLen := n, fsm := .proc } ∧
      ∀ a, m.read a = if a < n.toNat then bytes[a]? else s.rx.read a) ∧
  (∀ (s : State) (n : BitVec 11) (bytes : List Byte), s.fsm ≠ .idle ∨ 1504 < n.toNat → ∀ t, exec (.rxFrame n bytes) s ≠ .next t) ∧
  (∀ s : State, s.fsm = .idle → ∃ t, exec (.rxFrame 0 []) s = .next t ∧ ∃ v, fcv t = .ok v ∧ decodeFcv v = .frmRunt)

/-- RX_FAIL (R233): enabled in IDLE; `fault <- 1`, HALT, `responded` and all else unchanged. -/
def Obligations.RxFailHalts : Prop :=
  ∀ s : State, (s.fsm = .idle → exec .rxFail s = .next { s with fault := 1, fsm := .halt }) ∧
    (s.fsm ≠ .idle → ∀ t, exec .rxFail s ≠ .next t)

/-- TX_OK (R234): enabled in SEND; the offered frame `TX[0..tx_len)` goes into one DIAG_REPLY record, then IDLE. Every legal SEND
state meets the premises (LegalKept). -/
def Obligations.TxOkReturns : Prop :=
  (∀ s : State, s.fsm = .send → s.txLen.toNat ≤ s.cfg.txCap → s.tx.written s.txLen.toNat →
    ∃ f : List Byte, f.length = s.txLen.toNat ∧ (∀ i, i < s.txLen.toNat → s.tx.read i = f[i]?) ∧
      exec .txOk s = .next { s with diag := diagAfter s [.reply s.txLen f], fsm := .idle }) ∧
  (∀ s : State, s.fsm ≠ .send → ∀ t, exec .txOk s ≠ .next t)

/-- TX_FAIL (R235): enabled in SEND; `fault <- 2`, HALT, all else unchanged: no DIAG_REPLY record, and `responded`, which is 1 in every
legal SEND state, stays 1. -/
def Obligations.TxFailHalts : Prop :=
  ∀ s : State, (s.fsm = .send → exec .txFail s = .next { s with fault := 2, fsm := .halt }) ∧
    (s.fsm ≠ .send → ∀ t, exec .txFail s ≠ .next t) ∧
    (Legal s → ∀ t, exec .txFail s = .next t → t.responded = true ∧ t.diag = s.diag)

/-- RESET (70_reset_and_hazards.md R300), in every state: IDLE, `responded = 0`, `fault = 0`, no record and no label. What the spec
leaves unspecified after it is the model's: no byte of `RX` and `TX` has a value (R301), `rx_len` and `tx_len` are within their
legal values (log entry 6). -/
def Obligations.ResetEntersIdle : Prop :=
  ∀ s : State, ∃ t, exec .reset s = .next t ∧ t.fsm = .idle ∧ t.responded = false ∧ t.fault = 0 ∧
    (∀ a, t.rx.read a = none) ∧ (∀ a, t.tx.read a = none) ∧ t.rxLen.toNat ≤ 1504 ∧ t.txLen.toNat ≤ 1500 ∧
    t.cfg = s.cfg ∧ t.turns = s.turns ∧ t.diag = s.diag ∧ t.labels = s.labels

/-- A step in a state that does not enable it has no move (46_validation_fsm.md R220, R236): RX_FRAME and RX_FAIL outside IDLE, TX_OK
and TX_FAIL outside SEND, a frame class outside PROC. -/
def Obligations.DisabledStepsRefused : Prop :=
  ∀ (i : Instr) (s : State), enabledIn i s.fsm = false → exec i s = .refused .notEnabled

/-- Only RESET leaves HALT (60_exceptions.md R276): in HALT nothing else has a next state, so `fault` keeps its first code, and RESET
clears `fault` and `responded`. -/
def Obligations.HaltOnlyLeftByReset : Prop :=
  ∀ s : State, s.fsm = .halt →
    (∀ i t, exec i s = .next t → i = .reset) ∧
    (∃ t, exec .reset s = .next t ∧ t.fsm = .idle ∧ t.fault = 0 ∧ t.responded = false)

/-! ### Frames: what an instruction leaves unchanged -/

/-- The twelve classes that are discarded or skipped (46_validation_fsm.md R226) change `fsm` and the outputs only: `responded`,
`fault`, `rx_len`, `tx_len` and every byte of `RX` and `TX` stay. -/
def Obligations.DropClassesFrame : Prop :=
  ∀ (i : Instr) (s t : State), isDropClass i = true → exec i s = .next t →
    t.fsm = .idle ∧ t.responded = s.responded ∧ t.fault = s.fault ∧ t.rxLen = s.rxLen ∧ t.txLen = s.txLen ∧
    t.cfg = s.cfg ∧ t.turns = s.turns ∧ t.fresh = s.fresh ∧ (∀ a, t.rx.read a = s.rx.read a) ∧ (∀ a, t.tx.read a = s.tx.read a)

/-- TCP_REPLY stores to `TX[0..44)` only when it goes to SEND, and to nothing when it halts (44_reply_builder.md R188, 60_exceptions.md
R274). -/
def Obligations.TcpReplyFrame : Prop :=
  ∀ s t : State, exec .tcpReply s = .next t →
    t.rxLen = s.rxLen ∧ t.cfg = s.cfg ∧ t.turns = s.turns ∧ t.fresh = s.fresh ∧ (∀ a, t.rx.read a = s.rx.read a) ∧
    (∀ a, 44 ≤ a → t.tx.read a = s.tx.read a) ∧
    ((t.fsm = .send ∧ t.fault = s.fault) ∨
      (t.fsm = .halt ∧ t.responded = s.responded ∧ t.txLen = s.txLen ∧ ∀ a, t.tx.read a = s.tx.read a))

/-- RX_FRAME stores to `RX[0..n)` only (20_memory.md R51). -/
def Obligations.RxFrameFrame : Prop :=
  ∀ (n : BitVec 11) (bytes : List Byte) (s t : State), exec (.rxFrame n bytes) s = .next t →
    t.responded = s.responded ∧ t.fault = s.fault ∧ t.txLen = s.txLen ∧ t.cfg = s.cfg ∧ t.turns = s.turns ∧ t.diag = s.diag ∧
    t.labels = s.labels ∧ t.fresh = s.fresh ∧ (∀ a, n.toNat ≤ a → t.rx.read a = s.rx.read a) ∧ (∀ a, t.tx.read a = s.tx.read a)

/-- RX_FAIL, TX_OK and TX_FAIL store to no buffer and change `fsm`, `fault` (TX_OK not even that) and, TX_OK, the diagnostic port
(46_validation_fsm.md R233 to R235). -/
def Obligations.ChannelEventsFrame : Prop :=
  ∀ (i : Instr) (s t : State), (i = .rxFail ∨ i = .txOk ∨ i = .txFail) → exec i s = .next t →
    t.responded = s.responded ∧ t.rxLen = s.rxLen ∧ t.txLen = s.txLen ∧ t.cfg = s.cfg ∧ t.turns = s.turns ∧
    t.labels = s.labels ∧ t.fresh = s.fresh ∧ (i = .txOk → t.fault = s.fault) ∧ (i ≠ .txOk → t.diag = s.diag) ∧
    (∀ a, t.rx.read a = s.rx.read a) ∧ (∀ a, t.tx.read a = s.tx.read a)

/-- The halt is precise (60_exceptions.md R274): after every fatal step the state is the state before it with only `fault` and `fsm`
changed (`diag` and `labels` are outputs), and the code is one of 1 to 4 (R271). -/
def Obligations.FatalStepsArePrecise : Prop :=
  ∀ (i : Instr) (s t : State), exec i s = .next t → t.fsm = .halt →
    t = { s with fsm := .halt, fault := t.fault, diag := t.diag, labels := t.labels } ∧ 1 ≤ t.fault.toNat ∧ t.fault.toNat ≤ 4

/-- `responded` is written by the reply branch and by RESET only (10_state.md R20, R21): from 0 to 1 by TCP_REPLY, to 0 by RESET. -/
def Obligations.RespondedWrittenBy : Prop :=
  ∀ (i : Instr) (s t : State), exec i s = .next t → t.responded ≠ s.responded →
    (i = .tcpReply ∧ s.responded = false ∧ t.responded = true) ∨ (i = .reset ∧ t.responded = false)

/-- No step changes the configuration (00_scope.md R8, 10_state.md R34). That it stands in State is the model's choice (log entry 2). -/
def Obligations.ConfigurationFixed : Prop :=
  ∀ s t : State, step s = .next t → t.cfg = s.cfg

/-- RX stability (70_reset_and_hazards.md R310, 20_memory.md R51): no step but RX_FRAME and RESET changes a byte of `RX` or `rx_len`. -/
def Obligations.RxChangedOnlyByReceiveOrReset : Prop :=
  ∀ (i : Instr) (s t : State), exec i s = .next t → (∀ n bytes, i ≠ .rxFrame n bytes) → i ≠ .reset →
    t.rxLen = s.rxLen ∧ ∀ a, t.rx.read a = s.rx.read a

/-- TX stability (70_reset_and_hazards.md R311): in SEND no step but RESET changes a byte of `TX` or `tx_len`: unless the next turn
is a RESET, whatever the schedule holds later. -/
def Obligations.TxStableInSend : Prop :=
  ∀ s t : State, s.fsm = .send → (∀ w, s.turns.head? = some (.host w) → w.rst = false) → step s = .next t → t.txLen = s.txLen ∧ ∀ a, t.tx.read a = s.tx.read a

/-! ### Invariants and whole-machine rules -/

/-- The machine is legal right after reset (10_state.md R35). -/
def Obligations.LegalAtReset : Prop := Legal State.reset

/-- Every step keeps a legal state legal: canonical buffers inside their spaces, lengths and fault codes in their legal ranges, a fault
code exactly in HALT, a whole frame in PROC, a whole reply and `responded` in SEND. -/
def Obligations.LegalKept : Prop :=
  ∀ s t : State, Legal s → step s = .next t → Legal t

/-- Progress of EXEC (46_validation_fsm.md R223): in every legal PROC state the block's turn ends in one step, in IDLE, SEND or HALT;
no read of EXEC faults (20_memory.md R56). -/
def Obligations.ProcStepsOut : Prop :=
  ∀ s : State, Legal s → s.fsm = .proc → blockTurn s →
    ∃ t, step s = .next t ∧ (t.fsm = .idle ∨ t.fsm = .send ∨ t.fsm = .halt)

/-- The decomposition into fetch, frame condition vector, class decode and class rule computes EXEC as 46_validation_fsm.md R224 writes
it, on every frame. -/
def Obligations.WholeExecRefined : Prop :=
  ∀ (s : State) (bs : List Byte), HoldsFrame s bs → blockTurn s → step s = .next (wholeExec (popTurn s) bs)

/-- Single shot (46_validation_fsm.md R254, 43_responder.md R172): along any run without RESET, from any state, at most one reply is
built, and none once the block has responded. -/
def Obligations.SingleShotRun : Prop :=
  ∀ (k : Nat) (s t : State), noReset s.turns → core.run k s = .next t →
    replies t + repliesLeft t = replies s + repliesLeft s

/-- Diagnostics do not matter (46_validation_fsm.md R250, R252): with DIAG_ENABLE and the port's past set to anything, every instruction
has the same outcome up to the two, and with DIAG_ENABLE false the port carries nothing. -/
def Obligations.DiagnosticsDoNotMatter : Prop :=
  ∀ (i : Instr) (s : State) (en : Bool) (d : List DiagRec),
    (match exec i s, exec i { s with cfg := { s.cfg with diagEnable := en }, diag := d } with
      | .next t, .next t' => t' = { t with cfg := { t.cfg with diagEnable := en }, diag := t'.diag } ∧ (en = false → t'.diag = d)
      | .fault f, .fault f' => f = f'
      | .refused r, .refused r' => r = r'
      | _, _ => False)

/-- A frame's class depends only on its length, the version and IHL byte, the total length, the protocol, the data offset and the SYN
flag (30_encoding.md R75, R87, R98, 40_frame_codec.md R110): the prefix, the checksums, the fragment fields, the reserved bits, the
other flags, the options and the payload have no effect on it. -/
def Obligations.ClassDependsOnlyOn : Prop :=
  ∀ (s s' : State) (bs bs' : List Byte), HoldsFrame s bs → HoldsFrame s' bs' →
    s.cfg.requireSyn = s'.cfg.requireSyn → s.responded = s'.responded → bs.length = bs'.length →
    Frame.byte bs 4 = Frame.byte bs' 4 → Frame.half bs 6 = Frame.half bs' 6 → Frame.byte bs 13 = Frame.byte bs' 13 →
    (Frame.tcp bs).doff = (Frame.tcp bs').doff → (Frame.tcp bs).flags.getLsbD 1 = (Frame.tcp bs').flags.getLsbD 1 →
    ∃ v v', fcv s = .ok v ∧ fcv s' = .ok v' ∧ decodeFcv v = decodeFcv v'

/-- The reply bytes depend only on the request's prefix, addresses, ports, sequence number and window, and on the configuration
(44_reply_builder.md R189): two requests that agree on these are answered with the same bytes. -/
def Obligations.ReplyDependsOnlyOn : Prop :=
  ∀ (s s' t t' : State) (bs bs' : List Byte), HoldsFrame s bs → HoldsFrame s' bs' → s.cfg = s'.cfg → 44 ≤ s.cfg.txCap →
    exec .tcpReply s = .next t → exec .tcpReply s' = .next t' → bs.take 4 = bs'.take 4 →
    (Frame.ip bs).src = (Frame.ip bs').src → (Frame.ip bs).dst = (Frame.ip bs').dst →
    (Frame.tcp bs).sport = (Frame.tcp bs').sport → (Frame.tcp bs).dport = (Frame.tcp bs').dport →
    (Frame.tcp bs).seq = (Frame.tcp bs').seq → (Frame.tcp bs).window = (Frame.tcp bs').window →
    ∃ f, txFrame t = .ok f ∧ txFrame t' = .ok f

/-! ### The checksum engine (45_checksum.md) -/

/-- One's-complement addition (R200): the 17-bit sum with its carry added back in, which does not carry again. -/
def Obligations.OnesAddEndAroundCarry : Prop :=
  (∀ a b : BitVec 16,
    (onesAdd a b).toNat = ((a.toNat + b.toNat) &&& 0xFFFF) + ((a.toNat + b.toNat) >>> 16) ∧
    (0x10000 ≤ a.toNat + b.toNat → (a.toNat + b.toNat) &&& 0xFFFF ≤ 0xFFFE)) ∧
  onesAdd 0xFFFF 0x0001 = 0x0001 ∧ onesAdd 0xFFFF 0xFFFF = 0xFFFF

/-- The checksum is the complement of the sum, with the examples of R203. -/
def Obligations.ChecksumExamples : Prop :=
  (∀ bs, csum16 bs = ~~~(onesSum bs)) ∧ csum16 [] = 0xFFFF ∧ csum16 (List.replicate 20 0) = 0xFFFF ∧
  onesSum [0x00, 0x01, 0xf2, 0x03, 0xf4, 0xf5, 0xf6, 0xf7] = 0xDDF2 ∧
  csum16 [0x00, 0x01, 0xf2, 0x03, 0xf4, 0xf5, 0xf6, 0xf7] = 0x220D

/-- `+1c` is commutative and associative, and the sum of a concatenation is the sum of the sums when the first part has even length
(R202). -/
def Obligations.OnesAddAlgebra : Prop :=
  (∀ a b, onesAdd a b = onesAdd b a) ∧ (∀ a b c, onesAdd (onesAdd a b) c = onesAdd a (onesAdd b c)) ∧
  (∀ d e : List Byte, d.length % 2 = 0 → onesSum (d ++ e) = onesAdd (onesSum d) (onesSum e))

/-- A segment whose checksum field has been filled in sums, with its pseudo-header, to 0xFFFF (R208). The computation fails exactly
for a segment longer than its 16-bit length can say (R207). -/
def Obligations.SegmentChecksumVerifies : Prop :=
  (∀ (src dst : BitVec 32) (proto : BitVec 8) (seg : List Byte), tcpChecksum src dst proto seg = none ↔ 0xFFFF < seg.length) ∧
  (∀ (src dst : BitVec 32) (proto : BitVec 8) (seg : List Byte), 18 ≤ seg.length → seg.length ≤ 0xFFFF →
    seg[16]? = some 0 → seg[17]? = some 0 →
    ∃ c, tcpChecksum src dst proto seg = some c ∧
      onesSum (pseudoHeader src dst proto (BitVec.ofNat 16 seg.length) ++ put16 seg 16 c) = 0xFFFF ∧
      csum16 (pseudoHeader src dst proto (BitVec.ofNat 16 seg.length) ++ put16 seg 16 c) = 0x0000)

/-- Both checksums of every reply on the transmit port verify (R208): the IPv4 header's over its 20 bytes, the TCP header's together
with the pseudo-header of the reply's own addresses. -/
def Obligations.ReplyChecksumsVerify : Prop :=
  ∀ (s : State) (bs : List Byte), HoldsFrame s bs → Frame.TcpOk bs → Frame.initiates s.cfg.requireSyn bs = true →
    s.responded = false → 44 ≤ s.cfg.txCap →
    ∃ t f, exec .tcpReply s = .next t ∧ txFrame t = .ok f ∧ csum16 ((f.drop 4).take 20) = 0 ∧
      csum16 (pseudoHeader (Frame.word f 16) (Frame.word f 20) (Frame.byte f 13) 20 ++ f.drop 24) = 0

/-! ### The parsers, the reads and the outputs -/

/-- The IPv4 parser recovers what was encoded (41_ipv4_parser.md R133): for a frame whose bytes 4 to 23 encode the header `h`, the view
is `h`, and when the checks pass so are the payload boundaries. -/
def Obligations.Ipv4ParserRecovers : Prop :=
  ∀ (s : State) (pre rest : List Byte) (h : IpHeader), pre.length = 4 → HoldsFrame s (pre ++ Frame.ipBytes h ++ rest) →
    ipView s = .ok h ∧
    (Frame.IpOk (pre ++ Frame.ipBytes h ++ rest) → ipParsed s = .ok h ∧ h.payloadStart = 4 + 4 * h.ihl.toNat ∧
      h.payloadLen = h.totalLength.toNat - 4 * h.ihl.toNat)

/-- The TCP parser recovers what was encoded (42_tcp_parser.md R151): for a frame whose TCP slice begins with the encoding of `t`, the
view is `t`. -/
def Obligations.TcpParserRecovers : Prop :=
  ∀ (s : State) (bs : List Byte) (t : TcpHeader), HoldsFrame s bs → Frame.TcpHeld bs →
    (bs.drop (Frame.ip bs).payloadStart).take 20 = Frame.tcpBytes t → tcpView s = .ok t

/-- A view field read outside its guard has no value (10_state.md R27 to R29), one clause per guard: `ip_len` of a runt, the IPv4
header fields of a frame below 24 bytes, the IPv4 payload fields of a frame whose IPv4 header does not parse, the TCP header fields
of a frame that is not TCP or whose TCP slice is below 20 bytes, and `tcp.payload_len` of a frame whose TCP header does not parse.
That "no meaning" is a fault is read from R27 (log entry 7). -/
def Obligations.ViewsUndefinedOutsideGuard : Prop :=
  (∀ s : State, s.rxLen.toNat < 4 → ipLen s = .error .viewUndefined) ∧
  (∀ s : State, s.rxLen.toNat < 24 → ipView s = .error .viewUndefined) ∧
  (∀ (s : State) (bs : List Byte), HoldsFrame s bs → ¬ Frame.IpOk bs → ipParsed s = .error .viewUndefined) ∧
  (∀ (s : State) (bs : List Byte), HoldsFrame s bs → ¬ Frame.TcpHeld bs → tcpView s = .error .viewUndefined) ∧
  (∀ (s : State) (bs : List Byte), HoldsFrame s bs → ¬ Frame.TcpOk bs → tcpParsed s = .error .viewUndefined)

/-- No read returns a stale byte (20_memory.md R56, R51, 70_reset_and_hazards.md R314): a read of `RX[i]` at `i >= rx_len` faults,
whatever `RX` holds there, and outside SEND a read of `TX`, or of the transmit port, faults, whatever `TX` holds. That the reads
fault is the model's form of "no rule reads it" (log entry 7). -/
def Obligations.StaleBytesNotRead : Prop :=
  (∀ (s : State) (i : Nat), s.rxLen.toNat ≤ i → rxByte s i = .error .rxBeyondFrame) ∧
  (∀ s : State, s.fsm ≠ .send → txFrame s = .error .txNotOffered ∧ ∀ i, txByte s i = .error .txNotOffered)

/-- The status outputs (10_state.md R33), and what they show in HALT (60_exceptions.md R275). -/
def Obligations.StatusOutputs : Prop :=
  ∀ s : State, (rxReady s = true ↔ s.fsm = .idle) ∧ (txValid s = true ↔ s.fsm = .send) ∧ (halted s = true ↔ s.fsm = .halt) ∧
    faultCode s = s.fault ∧ respondedOut s = s.responded ∧
    (s.fsm = .halt → halted s = true ∧ txValid s = false ∧ rxReady s = false)

/-- What REPLY_BUILD's failures do (44_reply_builder.md R187, R188, 45_checksum.md R207, 60_exceptions.md R277). The capacity check
comes first, and no reply has a checksum input failure. Were there one, CSUM_FAIL_POLICY would decide: FATAL halts with code 3,
DISCARD goes to IDLE, and neither writes `TX`, `tx_len` or `responded`. The label of the second is read from R225 (log entry 15). -/
def Obligations.BuildFailuresHandled : Prop :=
  (∀ (c : Params) (pre : List Byte) (r : ReplyDesc),
    (buildReply c pre r = .bufSmall ↔ c.txCap < 44) ∧ buildReply c pre r ≠ .csumFail) ∧
  (∀ s : State, finishReply s .bufSmall =
    { s with fsm := .halt, fault := 4, labels := s.labels ++ [{ cls := 12, fatal := some 4 }] }) ∧
  (∀ s : State, s.cfg.csumFailPolicy = .fatal → finishReply s .csumFail =
    { s with fsm := .halt, fault := 3, labels := s.labels ++ [{ cls := 12, fatal := some 3 }] }) ∧
  (∀ s : State, s.cfg.csumFailPolicy = .discard → finishReply s .csumFail =
    { s with fsm := .idle, labels := s.labels ++ [{ cls := 12, fatal := none }] })
end

