-- ==== Sys2Proof/Laws/State.lean ====
section
/-! SUPPORT. One lemma per field per update of State, true by rfl. -/

namespace Sys2Proof.Machine

@[simp] theorem State.setFsm_fsm (s : State) (x : Fsm) : (s.setFsm x).fsm = x := rfl
@[simp] theorem State.setFsm_responded (s : State) (x : Fsm) : (s.setFsm x).responded = s.responded := rfl
@[simp] theorem State.setFsm_fault (s : State) (x : Fsm) : (s.setFsm x).fault = s.fault := rfl
@[simp] theorem State.setFsm_rxLen (s : State) (x : Fsm) : (s.setFsm x).rxLen = s.rxLen := rfl
@[simp] theorem State.setFsm_rx (s : State) (x : Fsm) : (s.setFsm x).rx = s.rx := rfl
@[simp] theorem State.setFsm_txLen (s : State) (x : Fsm) : (s.setFsm x).txLen = s.txLen := rfl
@[simp] theorem State.setFsm_tx (s : State) (x : Fsm) : (s.setFsm x).tx = s.tx := rfl
@[simp] theorem State.setFsm_cfg (s : State) (x : Fsm) : (s.setFsm x).cfg = s.cfg := rfl
@[simp] theorem State.setFsm_turns (s : State) (x : Fsm) : (s.setFsm x).turns = s.turns := rfl
@[simp] theorem State.setFsm_diag (s : State) (x : Fsm) : (s.setFsm x).diag = s.diag := rfl
@[simp] theorem State.setFsm_labels (s : State) (x : Fsm) : (s.setFsm x).labels = s.labels := rfl
@[simp] theorem State.setFsm_fresh (s : State) (x : Fsm) : (s.setFsm x).fresh = s.fresh := rfl

@[simp] theorem State.raiseFatal_fsm (s : State) (c : BitVec 3) : (s.raiseFatal c).fsm = .halt := rfl
@[simp] theorem State.raiseFatal_responded (s : State) (c : BitVec 3) : (s.raiseFatal c).responded = s.responded := rfl
@[simp] theorem State.raiseFatal_fault (s : State) (c : BitVec 3) : (s.raiseFatal c).fault = c := rfl
@[simp] theorem State.raiseFatal_rxLen (s : State) (c : BitVec 3) : (s.raiseFatal c).rxLen = s.rxLen := rfl
@[simp] theorem State.raiseFatal_rx (s : State) (c : BitVec 3) : (s.raiseFatal c).rx = s.rx := rfl
@[simp] theorem State.raiseFatal_txLen (s : State) (c : BitVec 3) : (s.raiseFatal c).txLen = s.txLen := rfl
@[simp] theorem State.raiseFatal_tx (s : State) (c : BitVec 3) : (s.raiseFatal c).tx = s.tx := rfl
@[simp] theorem State.raiseFatal_cfg (s : State) (c : BitVec 3) : (s.raiseFatal c).cfg = s.cfg := rfl
@[simp] theorem State.raiseFatal_turns (s : State) (c : BitVec 3) : (s.raiseFatal c).turns = s.turns := rfl
@[simp] theorem State.raiseFatal_diag (s : State) (c : BitVec 3) : (s.raiseFatal c).diag = s.diag := rfl
@[simp] theorem State.raiseFatal_labels (s : State) (c : BitVec 3) : (s.raiseFatal c).labels = s.labels := rfl
@[simp] theorem State.raiseFatal_fresh (s : State) (c : BitVec 3) : (s.raiseFatal c).fresh = s.fresh := rfl

@[simp] theorem State.addLabel_fsm (s : State) (c : BitVec 4) (f : Option (BitVec 3)) : (s.addLabel c f).fsm = s.fsm := rfl
@[simp] theorem State.addLabel_responded (s : State) (c : BitVec 4) (f : Option (BitVec 3)) : (s.addLabel c f).responded = s.responded := rfl
@[simp] theorem State.addLabel_fault (s : State) (c : BitVec 4) (f : Option (BitVec 3)) : (s.addLabel c f).fault = s.fault := rfl
@[simp] theorem State.addLabel_rxLen (s : State) (c : BitVec 4) (f : Option (BitVec 3)) : (s.addLabel c f).rxLen = s.rxLen := rfl
@[simp] theorem State.addLabel_rx (s : State) (c : BitVec 4) (f : Option (BitVec 3)) : (s.addLabel c f).rx = s.rx := rfl
@[simp] theorem State.addLabel_txLen (s : State) (c : BitVec 4) (f : Option (BitVec 3)) : (s.addLabel c f).txLen = s.txLen := rfl
@[simp] theorem State.addLabel_tx (s : State) (c : BitVec 4) (f : Option (BitVec 3)) : (s.addLabel c f).tx = s.tx := rfl
@[simp] theorem State.addLabel_cfg (s : State) (c : BitVec 4) (f : Option (BitVec 3)) : (s.addLabel c f).cfg = s.cfg := rfl
@[simp] theorem State.addLabel_turns (s : State) (c : BitVec 4) (f : Option (BitVec 3)) : (s.addLabel c f).turns = s.turns := rfl
@[simp] theorem State.addLabel_diag (s : State) (c : BitVec 4) (f : Option (BitVec 3)) : (s.addLabel c f).diag = s.diag := rfl
@[simp] theorem State.addLabel_labels (s : State) (c : BitVec 4) (f : Option (BitVec 3)) : (s.addLabel c f).labels = s.labels ++ [{ cls := c, fatal := f }] := rfl
@[simp] theorem State.addLabel_fresh (s : State) (c : BitVec 4) (f : Option (BitVec 3)) : (s.addLabel c f).fresh = s.fresh := rfl

@[simp] theorem State.receive_fsm (s : State) (n : BitVec 11) (bs : List Byte) : (s.receive n bs).fsm = .proc := rfl
@[simp] theorem State.receive_responded (s : State) (n : BitVec 11) (bs : List Byte) : (s.receive n bs).responded = s.responded := rfl
@[simp] theorem State.receive_fault (s : State) (n : BitVec 11) (bs : List Byte) : (s.receive n bs).fault = s.fault := rfl
@[simp] theorem State.receive_rxLen (s : State) (n : BitVec 11) (bs : List Byte) : (s.receive n bs).rxLen = n := rfl
@[simp] theorem State.receive_rx (s : State) (n : BitVec 11) (bs : List Byte) : (s.receive n bs).rx = s.rx.writeBytes 0 bs := rfl
@[simp] theorem State.receive_txLen (s : State) (n : BitVec 11) (bs : List Byte) : (s.receive n bs).txLen = s.txLen := rfl
@[simp] theorem State.receive_tx (s : State) (n : BitVec 11) (bs : List Byte) : (s.receive n bs).tx = s.tx := rfl
@[simp] theorem State.receive_cfg (s : State) (n : BitVec 11) (bs : List Byte) : (s.receive n bs).cfg = s.cfg := rfl
@[simp] theorem State.receive_turns (s : State) (n : BitVec 11) (bs : List Byte) : (s.receive n bs).turns = s.turns := rfl
@[simp] theorem State.receive_diag (s : State) (n : BitVec 11) (bs : List Byte) : (s.receive n bs).diag = s.diag := rfl
@[simp] theorem State.receive_labels (s : State) (n : BitVec 11) (bs : List Byte) : (s.receive n bs).labels = s.labels := rfl
@[simp] theorem State.receive_fresh (s : State) (n : BitVec 11) (bs : List Byte) : (s.receive n bs).fresh = s.fresh := rfl

@[simp] theorem State.offer_fsm (s : State) (bs : List Byte) : (s.offer bs).fsm = .send := rfl
@[simp] theorem State.offer_responded (s : State) (bs : List Byte) : (s.offer bs).responded = true := rfl
@[simp] theorem State.offer_fault (s : State) (bs : List Byte) : (s.offer bs).fault = s.fault := rfl
@[simp] theorem State.offer_rxLen (s : State) (bs : List Byte) : (s.offer bs).rxLen = s.rxLen := rfl
@[simp] theorem State.offer_rx (s : State) (bs : List Byte) : (s.offer bs).rx = s.rx := rfl
@[simp] theorem State.offer_txLen (s : State) (bs : List Byte) : (s.offer bs).txLen = 44 := rfl
@[simp] theorem State.offer_tx (s : State) (bs : List Byte) : (s.offer bs).tx = s.tx.writeBytes 0 bs := rfl
@[simp] theorem State.offer_cfg (s : State) (bs : List Byte) : (s.offer bs).cfg = s.cfg := rfl
@[simp] theorem State.offer_turns (s : State) (bs : List Byte) : (s.offer bs).turns = s.turns := rfl
@[simp] theorem State.offer_diag (s : State) (bs : List Byte) : (s.offer bs).diag = s.diag := rfl
@[simp] theorem State.offer_labels (s : State) (bs : List Byte) : (s.offer bs).labels = s.labels := rfl
@[simp] theorem State.offer_fresh (s : State) (bs : List Byte) : (s.offer bs).fresh = s.fresh := rfl

@[simp] theorem State.doReset_fsm (s : State) : (s.doReset).fsm = .idle := rfl
@[simp] theorem State.doReset_responded (s : State) : (s.doReset).responded = false := rfl
@[simp] theorem State.doReset_fault (s : State) : (s.doReset).fault = 0 := rfl
@[simp] theorem State.doReset_rxLen (s : State) : (s.doReset).rxLen = BitVec.ofNat 11 (Config.freeRxLen s.fresh).val := rfl
@[simp] theorem State.doReset_rx (s : State) : (s.doReset).rx = [] := rfl
@[simp] theorem State.doReset_txLen (s : State) : (s.doReset).txLen = BitVec.ofNat 11 (Config.freeTxLen s.fresh).val := rfl
@[simp] theorem State.doReset_tx (s : State) : (s.doReset).tx = [] := rfl
@[simp] theorem State.doReset_cfg (s : State) : (s.doReset).cfg = s.cfg := rfl
@[simp] theorem State.doReset_turns (s : State) : (s.doReset).turns = s.turns := rfl
@[simp] theorem State.doReset_diag (s : State) : (s.doReset).diag = s.diag := rfl
@[simp] theorem State.doReset_labels (s : State) : (s.doReset).labels = s.labels := rfl
@[simp] theorem State.doReset_fresh (s : State) : (s.doReset).fresh = s.fresh + 1 := rfl

@[simp] theorem State.emit_fsm (s : State) (r : DiagRec) : (s.emit r).fsm = s.fsm := by
  unfold State.emit; split <;> rfl
@[simp] theorem State.emit_responded (s : State) (r : DiagRec) : (s.emit r).responded = s.responded := by
  unfold State.emit; split <;> rfl
@[simp] theorem State.emit_fault (s : State) (r : DiagRec) : (s.emit r).fault = s.fault := by
  unfold State.emit; split <;> rfl
@[simp] theorem State.emit_rxLen (s : State) (r : DiagRec) : (s.emit r).rxLen = s.rxLen := by
  unfold State.emit; split <;> rfl
@[simp] theorem State.emit_rx (s : State) (r : DiagRec) : (s.emit r).rx = s.rx := by
  unfold State.emit; split <;> rfl
@[simp] theorem State.emit_txLen (s : State) (r : DiagRec) : (s.emit r).txLen = s.txLen := by
  unfold State.emit; split <;> rfl
@[simp] theorem State.emit_tx (s : State) (r : DiagRec) : (s.emit r).tx = s.tx := by
  unfold State.emit; split <;> rfl
@[simp] theorem State.emit_cfg (s : State) (r : DiagRec) : (s.emit r).cfg = s.cfg := by
  unfold State.emit; split <;> rfl
@[simp] theorem State.emit_turns (s : State) (r : DiagRec) : (s.emit r).turns = s.turns := by
  unfold State.emit; split <;> rfl
@[simp] theorem State.emit_diag (s : State) (r : DiagRec) : (s.emit r).diag = diagAfter s [r] := by
  unfold State.emit diagAfter; split <;> rfl
@[simp] theorem State.emit_labels (s : State) (r : DiagRec) : (s.emit r).labels = s.labels := by
  unfold State.emit; split <;> rfl
@[simp] theorem State.emit_fresh (s : State) (r : DiagRec) : (s.emit r).fresh = s.fresh := by
  unfold State.emit; split <;> rfl

@[simp] theorem State.discard_fsm (s : State) (c : BitVec 4) : (s.discard c).fsm = .idle := by
  unfold State.discard; split <;> simp
@[simp] theorem State.discard_responded (s : State) (c : BitVec 4) : (s.discard c).responded = s.responded := by
  unfold State.discard; split <;> simp
@[simp] theorem State.discard_fault (s : State) (c : BitVec 4) : (s.discard c).fault = s.fault := by
  unfold State.discard; split <;> simp
@[simp] theorem State.discard_rxLen (s : State) (c : BitVec 4) : (s.discard c).rxLen = s.rxLen := by
  unfold State.discard; split <;> simp
@[simp] theorem State.discard_rx (s : State) (c : BitVec 4) : (s.discard c).rx = s.rx := by
  unfold State.discard; split <;> simp
@[simp] theorem State.discard_txLen (s : State) (c : BitVec 4) : (s.discard c).txLen = s.txLen := by
  unfold State.discard; split <;> simp
@[simp] theorem State.discard_tx (s : State) (c : BitVec 4) : (s.discard c).tx = s.tx := by
  unfold State.discard; split <;> simp
@[simp] theorem State.discard_cfg (s : State) (c : BitVec 4) : (s.discard c).cfg = s.cfg := by
  unfold State.discard; split <;> simp
@[simp] theorem State.discard_turns (s : State) (c : BitVec 4) : (s.discard c).turns = s.turns := by
  unfold State.discard; split <;> simp
@[simp] theorem State.discard_diag (s : State) (c : BitVec 4) :
    (s.discard c).diag = if malformedClass c then diagAfter s [.malformed c] else s.diag := by
  unfold State.discard; split <;> simp
@[simp] theorem State.discard_labels (s : State) (c : BitVec 4) :
    (s.discard c).labels = s.labels ++ [{ cls := c, fatal := none }] := by
  unfold State.discard; split <;> simp
@[simp] theorem State.discard_fresh (s : State) (c : BitVec 4) : (s.discard c).fresh = s.fresh := by
  unfold State.discard; split <;> simp

/-- Two states with the same fields are the same. -/
theorem State.eq_of_fields {s t : State} (h1 : s.fsm = t.fsm) (h2 : s.responded = t.responded) (h3 : s.fault = t.fault)
    (h4 : s.rxLen = t.rxLen) (h5 : s.rx = t.rx) (h6 : s.txLen = t.txLen) (h7 : s.tx = t.tx) (h8 : s.cfg = t.cfg)
    (h9 : s.turns = t.turns) (h10 : s.diag = t.diag) (h11 : s.labels = t.labels) (h12 : s.fresh = t.fresh) : s = t := by
  cases s; cases t; simp_all

end Sys2Proof.Machine
end

