-- ==== Sys2Proof/Laws/Memory.lean ====
section
/-! SUPPORT. The buffers: a read after a write, the canonical form, and what a read of RX or TX answers. -/

namespace Sys2Proof.Machine

theorem Memory.read_append (m m' : Memory) (a : Nat) :
    Memory.read (m ++ m') a = (m.read a).or (m'.read a) := by
  induction m with
  | nil => simp [Memory.read]
  | cons c m ih =>
    simp only [List.cons_append, Memory.read]
    split <;> simp [ih]

theorem Memory.read_filter (m : Memory) (p : Nat → Bool) (a : Nat) :
    Memory.read (m.filter (fun c => p c.1)) a = if p a then m.read a else none := by
  induction m with
  | nil => simp [Memory.read]
  | cons c m ih =>
    by_cases hc : c.1 = a
    · subst hc
      by_cases hp : p c.1 <;> simp_all [Memory.read]
    · by_cases hp : p c.1 <;> simp_all [Memory.read]

theorem Memory.read_cells (base : Nat) (bs : List Byte) (a : Nat) :
    Memory.read (Memory.cells base bs) a = if base ≤ a then bs[a - base]? else none := by
  induction bs generalizing base with
  | nil => simp [Memory.cells, Memory.read]
  | cons b bs ih =>
    simp only [Memory.cells, Memory.read, ih]
    by_cases h : base = a
    · simp [h]
    · by_cases h' : base ≤ a
      · have : a - base = (a - (base + 1)) + 1 := by omega
        simp [h, h', this, show base + 1 ≤ a by omega]
      · simp [h, h', show ¬ base + 1 ≤ a by omega]

/-- A read after a write: the bytes written where they were written, every other offset as before. -/
theorem Memory.read_writeBytes (m : Memory) (base : Nat) (bs : List Byte) (a : Nat) :
    (m.writeBytes base bs).read a =
      if base ≤ a ∧ a < base + bs.length then bs[a - base]? else m.read a := by
  unfold Memory.writeBytes
  rw [Memory.read_append, Memory.read_append,
    Memory.read_filter m (fun x => decide (x < base)) a,
    Memory.read_filter m (fun x => decide (base + bs.length ≤ x)) a, Memory.read_cells]
  by_cases h1 : a < base
  · have h3 : ¬ base ≤ a := by omega
    have h4 : ¬ base + bs.length ≤ a := by omega
    simp [h1, h3, h4]
  · by_cases h2 : a < base + bs.length
    · have h3 : a - base < bs.length := by omega
      simp [h1, h2, show base ≤ a by omega, show ¬ base + bs.length ≤ a by omega]
    · have h3 : bs.length ≤ a - base := by omega
      simp [h1, h2, show base ≤ a by omega, show base + bs.length ≤ a by omega,
        List.getElem?_eq_none_iff.mpr h3]

theorem Memory.mem_cells {base : Nat} {bs : List Byte} {c : Host.Cell} (h : c ∈ Memory.cells base bs) :
    base ≤ c.1 ∧ c.1 < base + bs.length := by
  induction bs generalizing base with
  | nil => simp [Memory.cells] at h
  | cons b bs ih =>
    simp only [Memory.cells, List.mem_cons] at h
    rcases h with rfl | h
    · simp
    · have := ih h
      simp only [List.length_cons]
      omega

theorem Memory.cells_pairwise (base : Nat) (bs : List Byte) :
    (Memory.cells base bs).Pairwise (fun a b => a.1 < b.1) := by
  induction bs generalizing base with
  | nil => simp [Memory.cells]
  | cons b bs ih =>
    simp only [Memory.cells, List.pairwise_cons]
    exact ⟨fun c hc => by have := Memory.mem_cells hc; omega, ih _⟩

/-- A write inside the buffer keeps the canonical form. -/
theorem Memory.writeBytes_wf {size : Nat} {m : Memory} (hm : m.wf size) (base : Nat) (bs : List Byte)
    (h : base + bs.length ≤ size) : (m.writeBytes base bs).wf size := by
  obtain ⟨hp, hb⟩ := hm
  refine ⟨?_, ?_⟩
  · unfold Memory.writeBytes
    rw [List.pairwise_append, List.pairwise_append]
    refine ⟨⟨hp.filter _, Memory.cells_pairwise _ _, ?_⟩, hp.filter _, ?_⟩
    · intro a ha b hb'
      have h1 := Memory.mem_cells hb'
      simp only [List.mem_filter, decide_eq_true_eq] at ha
      omega
    · intro a ha b hb'
      simp only [List.mem_filter, decide_eq_true_eq, List.mem_append] at ha hb'
      rcases ha with ha | ha
      · omega
      · have := Memory.mem_cells ha
        omega
  · intro c hc
    simp only [Memory.writeBytes, List.mem_append, List.mem_filter, decide_eq_true_eq] at hc
    rcases hc with (hc | hc) | hc
    · exact hb c hc.1
    · have := Memory.mem_cells hc
      omega
    · exact hb c hc.1

theorem Memory.wf_nil (size : Nat) : Memory.wf size [] := ⟨List.Pairwise.nil, by simp⟩

/-- A write covers the offsets it writes. -/
theorem Memory.writeBytes_written (m : Memory) (bs : List Byte) : (m.writeBytes 0 bs).written bs.length := by
  intro i hi
  rw [Memory.read_writeBytes]
  exact ⟨bs[i], by simp [hi]⟩

/-- Everything a read of RX can answer (R56, R301). -/
theorem rxByte_eq_ok {s : State} {i : Nat} {b : Byte} :
    rxByte s i = .ok b ↔ i < s.rxLen.toNat ∧ i < 1504 ∧ s.rx.read i = some b := by
  unfold rxByte
  by_cases h1 : s.rxLen.toNat ≤ i
  · simp [h1, Nat.not_lt.mpr h1]
  · by_cases h2 : 1504 ≤ i
    · simp [h1, h2, Nat.not_lt.mpr h2]
    · cases hr : s.rx.read i <;> simp [h1, h2, Nat.lt_of_not_le h1, Nat.lt_of_not_le h2]

/-- Everything a read of TX can answer (R51, R301). -/
theorem txByte_eq_ok {s : State} {i : Nat} {b : Byte} :
    txByte s i = .ok b ↔ s.fsm = .send ∧ i < s.cfg.txCap ∧ s.tx.read i = some b := by
  unfold txByte
  by_cases h0 : s.fsm = .send
  · by_cases h1 : s.cfg.txCap ≤ i
    · simp [h0, h1, Nat.not_lt.mpr h1]
    · cases hr : s.tx.read i <;> simp [h0, h1, Nat.lt_of_not_le h1]
  · simp [h0]

/-- A block read of RX answers the bytes, one by one. -/
theorem rxBytes_ok {s : State} {i n : Nat} {bs : List Byte} (hl : bs.length = n)
    (h : ∀ k (hk : k < bs.length), rxByte s (i + k) = .ok bs[k]) : rxBytes s i n = .ok bs := by
  induction n generalizing i bs with
  | zero => simp [rxBytes, List.eq_nil_of_length_eq_zero hl]
  | succ n ih =>
    cases bs with
    | nil => simp at hl
    | cons b bs =>
      have h0 := h 0 (by simp)
      simp only [Nat.add_zero, List.getElem_cons_zero] at h0
      have hr := ih (i := i + 1) (bs := bs) (by simpa using hl) (fun k hk => by
        have := h (k + 1) (by simpa using hk)
        simpa [Nat.add_assoc, Nat.add_comm 1 k] using this)
      simp [rxBytes, h0, hr]

/-- A block read of TX answers the bytes, one by one. -/
theorem txBytes_ok {s : State} {i n : Nat} {bs : List Byte} (hl : bs.length = n)
    (h : ∀ k (hk : k < bs.length), txByte s (i + k) = .ok bs[k]) : txBytes s i n = .ok bs := by
  induction n generalizing i bs with
  | zero => simp [txBytes, List.eq_nil_of_length_eq_zero hl]
  | succ n ih =>
    cases bs with
    | nil => simp at hl
    | cons b bs =>
      have h0 := h 0 (by simp)
      simp only [Nat.add_zero, List.getElem_cons_zero] at h0
      have hr := ih (i := i + 1) (bs := bs) (by simpa using hl) (fun k hk => by
        have := h (k + 1) (by simpa using hk)
        simpa [Nat.add_assoc, Nat.add_comm 1 k] using this)
      simp [txBytes, h0, hr]

/-- The offered frame can be read when it has been written and fits (R311). -/
theorem txBytes_of_written {s : State} {n : Nat} (hf : s.fsm = .send) (hc : n ≤ s.cfg.txCap) (hw : s.tx.written n) :
    ∃ bs, bs.length = n ∧ txBytes s 0 n = .ok bs ∧ ∀ i (h : i < bs.length), s.tx.read i = some bs[i] := by
  classical
  let f : Nat → Byte := fun i => (s.tx.read i).getD 0
  refine ⟨(List.range n).map f, by simp, ?_, ?_⟩
  · refine txBytes_ok (by simp) fun k hk => ?_
    simp only [List.length_map, List.length_range] at hk
    obtain ⟨b, hb⟩ := hw k hk
    rw [txByte_eq_ok]
    simp [f, hb, hf]
    omega
  · intro i hi
    simp only [List.length_map, List.length_range] at hi
    obtain ⟨b, hb⟩ := hw i hi
    simp [f, hb]

end Sys2Proof.Machine
end

