-- ==== Sys2Proof/Laws/Views.lean ====
section
/-! SUPPORT. The views of a held frame are the fields of its bytes (41_ipv4_parser.md, 42_tcp_parser.md). -/

namespace Sys2Proof.Machine

/-- A held frame's byte is read as it stands (R62). -/
theorem rxByte_holds {s : State} {bs : List Byte} (h : HoldsFrame s bs) {i : Nat} (hi : i < bs.length) :
    rxByte s i = .ok (Frame.byte bs i) := by
  rw [rxByte_eq_ok, h.len, h.bytes i hi]
  have := h.short
  simp [Frame.byte, hi]
  omega

theorem rx16_holds {s : State} {bs : List Byte} (h : HoldsFrame s bs) {i : Nat} (hi : i + 1 < bs.length) :
    rx16 s i = .ok (Frame.half bs i) := by
  simp [rx16, rxByte_holds h (show i < bs.length by omega), rxByte_holds h hi, Frame.half, bind, Except.bind]

theorem rx32_holds {s : State} {bs : List Byte} (h : HoldsFrame s bs) {i : Nat} (hi : i + 3 < bs.length) :
    rx32 s i = .ok (Frame.word bs i) := by
  simp [rx32, rx16_holds h (show i + 1 < bs.length by omega), rx16_holds h (show i + 2 + 1 < bs.length by omega),
    Frame.word, bind, Except.bind]

/-- The frame's first four bytes are read as the prefix (40_frame_codec.md R113). -/
theorem rxPrefix_holds {s : State} {bs : List Byte} (h : HoldsFrame s bs) (hl : 4 ≤ bs.length) :
    rxBytes s 0 4 = .ok [Frame.byte bs 0, Frame.byte bs 1, Frame.byte bs 2, Frame.byte bs 3] := by
  simp [rxBytes, rxByte_holds h (show 0 < bs.length by omega), rxByte_holds h (show 1 < bs.length by omega),
    rxByte_holds h (show 2 < bs.length by omega), rxByte_holds h (show 3 < bs.length by omega)]

/-- The IPv4 fixed header of a held frame (R121 to R127). -/
theorem readIp_holds {s : State} {bs : List Byte} (h : HoldsFrame s bs) (hl : 24 ≤ bs.length) :
    readIp s = .ok (Frame.ip bs) := by
  simp [readIp, rxByte_holds h (show 4 < bs.length by omega), rxByte_holds h (show 5 < bs.length by omega),
    rx16_holds h (show 6 + 1 < bs.length by omega), rx16_holds h (show 8 + 1 < bs.length by omega),
    rx16_holds h (show 10 + 1 < bs.length by omega), rxByte_holds h (show 12 < bs.length by omega),
    rxByte_holds h (show 13 < bs.length by omega), rx16_holds h (show 14 + 1 < bs.length by omega),
    rx32_holds h (show 16 + 3 < bs.length by omega), rx32_holds h (show 20 + 3 < bs.length by omega),
    Frame.ip, bind, Except.bind]

/-- The TCP fixed header of a held frame (R140 to R145). -/
theorem readTcp_holds {s : State} {bs : List Byte} (h : HoldsFrame s bs) {b : Nat} (hl : b + 20 ≤ bs.length) :
    readTcp s b = .ok (Frame.tcpAt bs b) := by
  simp [readTcp, rx16_holds h (show b + 1 < bs.length by omega), rx16_holds h (show b + 2 + 1 < bs.length by omega),
    rx32_holds h (show b + 4 + 3 < bs.length by omega), rx32_holds h (show b + 8 + 3 < bs.length by omega),
    rxByte_holds h (show b + 12 < bs.length by omega), rxByte_holds h (show b + 13 < bs.length by omega),
    rx16_holds h (show b + 14 + 1 < bs.length by omega), rx16_holds h (show b + 16 + 1 < bs.length by omega),
    rx16_holds h (show b + 18 + 1 < bs.length by omega), Frame.tcpAt, bind, Except.bind]

/-- The IP slice of a held frame that carries its prefix (R112, R120). -/
theorem ipLen_holds {s : State} {bs : List Byte} (h : HoldsFrame s bs) (hl : 4 ≤ bs.length) :
    ipLen s = .ok (bs.length - 4) := by
  simp [ipLen, h.len, Nat.not_lt.mpr hl]

/-- The IP slice of a held frame is at most `MAX_IP` bytes (R120). -/
theorem ipLen_le {s : State} {bs : List Byte} (h : HoldsFrame s bs) {len : Nat} (hl : ipLen s = .ok len) :
    len ≤ Config.maxIp := by
  have h1 := h.len
  have h2 := h.short
  unfold ipLen at hl
  split at hl
  · cases hl
  · cases hl
    simp only [Config.prefixLen, Config.maxIp]
    omega

theorem ipView_holds {s : State} {bs : List Byte} (h : HoldsFrame s bs) (hl : 24 ≤ bs.length) :
    ipView s = .ok (Frame.ip bs) := by
  simp [ipView, ipLen_holds h (by omega), readIp_holds h hl]
  omega

/-- The view guard is the parser's success (R128). -/
theorem ipAccepts_holds {bs : List Byte} (hi : Frame.IpOk bs) : ipAccepts (bs.length - 4) (Frame.ip bs) = true := by
  simp [ipAccepts, hi.version, hi.ihl, hi.hdrFits, hi.totLow, hi.totHigh]

theorem ipParsed_holds {s : State} {bs : List Byte} (h : HoldsFrame s bs) (hi : Frame.IpOk bs) :
    ipParsed s = .ok (Frame.ip bs) := by
  have hl := hi.len
  simp [ipParsed, ipLen_holds h (by omega), ipView_holds h hl, ipAccepts_holds hi]

/-- The TCP fixed header lies inside the frame (20_memory.md R56). -/
theorem tcp_inside {bs : List Byte} (hi : Frame.IpOk bs) (hp : 20 ≤ (Frame.ip bs).payloadLen) :
    (Frame.ip bs).payloadStart + 20 ≤ bs.length := by
  have h1 := hi.totHigh
  have h2 := hi.len
  simp only [IpHeader.payloadLen, IpHeader.payloadStart, Config.prefixLen] at *
  omega

theorem tcpView_holds {s : State} {bs : List Byte} (h : HoldsFrame s bs) (ht : Frame.TcpHeld bs) :
    tcpView s = .ok (Frame.tcp bs) := by
  simp [tcpView, ipParsed_holds h ht.ip, ht.proto, ht.fixed, readTcp_holds h (tcp_inside ht.ip ht.fixed), Frame.tcp]

theorem tcpParsed_holds {s : State} {bs : List Byte} (h : HoldsFrame s bs) (ht : Frame.TcpOk bs) :
    tcpParsed s = .ok (Frame.tcp bs) := by
  simp [tcpParsed, ipParsed_holds h ht.held.ip, tcpView_holds h ht.held, tcpAccepts, ht.doff, ht.hdrFits]

/-- A legal PROC state holds a frame (R62). -/
theorem Legal.holds {s : State} (h : Legal s) (hp : s.fsm = .proc) : ∃ bs, HoldsFrame s bs := by
  refine ⟨(List.range s.rxLen.toNat).map fun i => (s.rx.read i).getD 0, hp, by simp, by simpa using h.rxLenLe, ?_⟩
  intro i hi
  simp only [List.length_map, List.length_range] at hi
  obtain ⟨b, hb⟩ := h.procFrame hp i hi
  simp [hb, hi]

end Sys2Proof.Machine
end

