-- ==== Sys2Proof/Laws/Fcv.lean ====
section
/-! SUPPORT. The frame condition vector of a held frame (30_encoding.md R95), condition by condition. -/

namespace Sys2Proof.Machine

/-- FCV bits 8 to 11 of a frame whose TCP header can be read. -/
def fcvTcpOf (requireSyn responded : Bool) (bs : List Byte) : BitVec 12 :=
  if (Frame.tcp bs).doff.toNat < 5 then 0x100
  else if (Frame.ip bs).payloadLen < (Frame.tcp bs).hlen then 0x200
  else if requireSyn ∧ (Frame.tcp bs).syn = false then 0x400
  else if responded then 0x800
  else 0x000

/-- The frame condition vector as a function of the frame's bytes. -/
def fcvOf (requireSyn responded : Bool) (bs : List Byte) : BitVec 12 :=
  if bs.length < 4 then 0x001
  else if bs.length - 4 < 20 then 0x002
  else if (Frame.ip bs).version ≠ 4 then 0x004
  else if (Frame.ip bs).ihl.toNat < 5 then 0x008
  else if bs.length - 4 < (Frame.ip bs).hlen then 0x010
  else if (Frame.ip bs).totalLength.toNat < (Frame.ip bs).hlen ∨ bs.length - 4 < (Frame.ip bs).totalLength.toNat then 0x020
  else if (Frame.ip bs).protocol ≠ 6 then 0x040
  else if (Frame.ip bs).payloadLen < 20 then 0x080
  else fcvTcpOf requireSyn responded bs

/-- EXEC reads the frame condition vector off the frame, without a fault (R56, R222). -/
theorem fcv_holds {s : State} {bs : List Byte} (h : HoldsFrame s bs) :
    fcv s = .ok (fcvOf s.cfg.requireSyn s.responded bs) := by
  unfold fcv fcvOf
  simp only [h.len, Config.prefixLen, Config.ipv4MinHlen]
  split
  · rfl
  simp only [ipLen_holds h (show 4 ≤ bs.length by omega)]
  split
  · rfl
  have hl : 24 ≤ bs.length := by omega
  simp only [ipView_holds h hl, fcvIp, Config.tcpProto, Config.tcpMinHlen]
  split
  · rfl
  split
  · rfl
  split
  · rfl
  split
  · rfl
  rename_i hv hi hh ht
  by_cases hp : (Frame.ip bs).protocol = 6
  · by_cases hT : (Frame.ip bs).payloadLen < 20
    · simp [hp, hT]
    · simp only [ne_eq, not_not] at hv
      have hok : Frame.IpOk bs := ⟨hl, hv, by omega, by omega, by omega, by omega⟩
      simp only [hp, hT, ne_eq, not_true_eq_false, if_false, readTcp_holds h (tcp_inside hok (by omega)), fcvTcp, fcvTcpOf,
        Frame.tcp]
      cases s.cfg.requireSyn <;> cases s.responded <;> simp
  · rw [if_pos hp, if_pos hp]

/-- The vector of a frame whose IPv4 header parses (R95, bits 6 and up). -/
theorem fcvOf_ipOk {bs : List Byte} (hi : Frame.IpOk bs) (q r : Bool) :
    fcvOf q r bs =
      if (Frame.ip bs).protocol ≠ 6 then 0x040
      else if (Frame.ip bs).payloadLen < 20 then 0x080
      else fcvTcpOf q r bs := by
  have h1 := hi.len
  have h2 := hi.ihl
  have h3 := hi.hdrFits
  have h4 := hi.totLow
  have h5 := hi.totHigh
  unfold fcvOf
  rw [if_neg (by omega), if_neg (by omega), if_neg (not_not.mpr hi.version), if_neg (by omega), if_neg (by omega),
    if_neg (by omega)]

/-- The vector of a frame whose TCP header parses (R95, bits 10 and 11). -/
theorem fcvOf_tcpOk {bs : List Byte} (ht : Frame.TcpOk bs) (q r : Bool) :
    fcvOf q r bs = if q ∧ (Frame.tcp bs).syn = false then 0x400 else if r then 0x800 else 0x000 := by
  have h1 := ht.held.fixed
  have h2 := ht.doff
  have h3 := ht.hdrFits
  rw [fcvOf_ipOk ht.held.ip, if_neg (not_not.mpr ht.held.proto), if_neg (by omega), fcvTcpOf, if_neg (by omega),
    if_neg (by omega)]

/-- The conditions that are known once the vector is all zero (R95): every check has passed. -/
theorem fcvOf_reply {q r : Bool} {bs : List Byte} (h : fcvOf q r bs = 0x000) :
    Frame.TcpOk bs ∧ ¬ (q = true ∧ (Frame.tcp bs).syn = false) ∧ r = false := by
  unfold fcvOf at h
  split at h
  · cases h
  split at h
  · cases h
  split at h
  · cases h
  split at h
  · cases h
  split at h
  · cases h
  split at h
  · cases h
  split at h
  · cases h
  split at h
  · cases h
  rename_i hv hi hh ht hp hT
  unfold fcvTcpOf at h
  split at h
  · cases h
  split at h
  · cases h
  split at h
  · cases h
  split at h
  · cases h
  rename_i hd hl hs hr
  have hok : Frame.IpOk bs := ⟨by omega, not_not.mp hv, by omega, by omega, by omega, by omega⟩
  exact ⟨⟨⟨hok, not_not.mp hp, by omega⟩, by omega, by omega⟩, hs, by simpa using hr⟩

end Sys2Proof.Machine
end

