-- ==== Sys2Proof/Laws/Reply.lean ====
section
/-! SUPPORT. The checksum engine's small lemmas and what REPLY_BUILD answers (44_reply_builder.md R188). -/

namespace Sys2Proof.Machine

/-- A 16-bit value is read back from its two bytes (00_scope.md R11). -/
@[simp] theorem be16_bytes (v : BitVec 16) : be16 (v.extractLsb' 8 8) (v.extractLsb' 0 8) = v := by
  simp only [be16]
  apply BitVec.eq_of_getLsbD_eq
  intro i hi
  simp only [BitVec.getLsbD_append, BitVec.getLsbD_extractLsb']
  split <;> simp_all; omega

/-- A 32-bit value is its two halves (00_scope.md R11). -/
@[simp] theorem halves (v : BitVec 32) : v.extractLsb' 16 16 ++ v.extractLsb' 0 16 = v := by
  apply BitVec.eq_of_getLsbD_eq
  intro i hi
  simp only [BitVec.getLsbD_append, BitVec.getLsbD_extractLsb']
  split <;> simp_all; omega

theorem onesAdd_toNat (a b : BitVec 16) :
    (onesAdd a b).toNat = (a.toNat + b.toNat) % 65536 + (a.toNat + b.toNat) / 65536 := by
  have ha := a.isLt
  have hb := b.isLt
  simp only [onesAdd, BitVec.toNat_ofNat]
  omega

@[simp] theorem onesSumFrom_nil (acc : BitVec 16) : onesSumFrom acc [] = acc := rfl

@[simp] theorem onesSumFrom_two (acc : BitVec 16) (a b : Byte) (bs : List Byte) :
    onesSumFrom acc (a :: b :: bs) = onesSumFrom (onesAdd acc (be16 a b)) bs := rfl

/-- The checksum inputs are consistent for every segment a 16-bit length can state (45_checksum.md R207). -/
theorem tcpChecksum_short (src dst : BitVec 32) (p : BitVec 8) (seg : List Byte) (h : seg.length ≤ 0xFFFF) :
    tcpChecksum src dst p seg = some (csum16 (pseudoHeader src dst p (BitVec.ofNat 16 seg.length) ++ seg)) := by
  simp [tcpChecksum, Nat.not_lt.mpr h]

@[simp] theorem replyIpHeader_length (c : Params) (r : ReplyDesc) : (replyIpHeader c r).length = 20 := rfl

@[simp] theorem replyTcpHeader_length (r : ReplyDesc) : (replyTcpHeader r).length = 20 := rfl

@[simp] theorem bytes16_length (v : BitVec 16) : (bytes16 v).length = 2 := rfl

@[simp] theorem bytes32_length (v : BitVec 32) : (bytes32 v).length = 4 := rfl

@[simp] theorem put16_length (bs : List Byte) (i : Nat) (v : BitVec 16) : (put16 bs i v).length = bs.length := by
  simp [put16]

@[simp] theorem replyBytes_length (c : Params) (bs : List Byte) (k1 k2 : BitVec 16) : (replyBytes c bs k1 k2).length = 44 := by
  simp [replyBytes]

/-- The reply is 44 bytes (R180). -/
@[simp] theorem replyFrame_length (c : Params) (bs : List Byte) : (replyFrame c bs).length = 44 := by
  simp [replyFrame]

/-- Everything REPLY_BUILD can answer: `BufferTooSmall` exactly below `REPLY_LEN`, else 40 bytes after the prefix; never a checksum
failure (R187, 45_checksum.md R207). -/
theorem buildReply_cases (c : Params) (pre : List Byte) (r : ReplyDesc) :
    (c.txCap < 44 ∧ buildReply c pre r = .bufSmall) ∨
      (44 ≤ c.txCap ∧ buildReply c pre r =
        .built (pre ++ put16 (replyIpHeader c r) 10 (csum16 (replyIpHeader c r)) ++
          put16 (replyTcpHeader r) 16 (csum16 (pseudoHeader r.ipSrc r.ipDst r.protocol 20 ++ replyTcpHeader r)))) := by
  by_cases h : c.txCap < 44
  · exact .inl ⟨h, by simp [buildReply, h]⟩
  · refine .inr ⟨by omega, ?_⟩
    have hs := tcpChecksum_short r.ipSrc r.ipDst r.protocol (replyTcpHeader r) (by simp)
    simp only [replyTcpHeader_length] at hs
    simp only [buildReply, Config.replyLen, if_neg h, hs]
    rfl

/-- What is built is the prefix and 40 bytes. -/
theorem buildReply_length {c : Params} {pre : List Byte} {r : ReplyDesc} (h : 44 ≤ c.txCap) :
    ∃ frame, frame.length = pre.length + 40 ∧ buildReply c pre r = .built frame := by
  obtain ⟨h', -⟩ | ⟨-, hb⟩ := buildReply_cases c pre r
  · omega
  · exact ⟨_, by simp, hb⟩

/-- The reply frame's bytes are the prefix and the two serialised headers (R180 to R182). -/
theorem replyBytes_parts (c : Params) (bs : List Byte) (k1 k2 : BitVec 16) :
    replyBytes c bs k1 k2 =
      [Frame.byte bs 0, Frame.byte bs 1, Frame.byte bs 2, Frame.byte bs 3] ++
        put16 (replyIpHeader c (deriveReply (Frame.ip bs) (Frame.tcp bs))) 10 k1 ++
        put16 (replyTcpHeader (deriveReply (Frame.ip bs) (Frame.tcp bs))) 16 k2 := by
  simp [replyBytes, put16, replyIpHeader, replyTcpHeader, deriveReply, bytes16, bytes32]

theorem put16_ip_zero (c : Params) (r : ReplyDesc) : put16 (replyIpHeader c r) 10 0 = replyIpHeader c r := by
  simp [put16, replyIpHeader, bytes16, bytes32]

theorem put16_tcp_zero (r : ReplyDesc) : put16 (replyTcpHeader r) 16 0 = replyTcpHeader r := by
  simp [put16, replyTcpHeader, bytes16, bytes32]

theorem replyIpCk_eq (c : Params) (bs : List Byte) :
    replyIpCk c bs = csum16 (replyIpHeader c (deriveReply (Frame.ip bs) (Frame.tcp bs))) := by
  rw [replyIpCk, replyBytes_parts, put16_ip_zero, put16_tcp_zero]
  congr 1

theorem replyTcpCk_eq (c : Params) (bs : List Byte) :
    replyTcpCk c bs = csum16 (pseudoHeader (Frame.ip bs).dst (Frame.ip bs).src 6 20 ++
      replyTcpHeader (deriveReply (Frame.ip bs) (Frame.tcp bs))) := by
  rw [replyTcpCk, replyBytes_parts, put16_ip_zero, put16_tcp_zero]
  congr 1

/-- REPLY_BUILD on the descriptor of a held frame: the frame of 30_encoding.md R89. -/
theorem buildReply_frame (c : Params) (bs : List Byte) (h : 44 ≤ c.txCap) :
    buildReply c [Frame.byte bs 0, Frame.byte bs 1, Frame.byte bs 2, Frame.byte bs 3]
      (deriveReply (Frame.ip bs) (Frame.tcp bs)) = .built (replyFrame c bs) := by
  obtain ⟨h', -⟩ | ⟨-, hb⟩ := buildReply_cases c
    [Frame.byte bs 0, Frame.byte bs 1, Frame.byte bs 2, Frame.byte bs 3] (deriveReply (Frame.ip bs) (Frame.tcp bs))
  · omega
  · rw [hb, replyFrame, replyBytes_parts, replyIpCk_eq, replyTcpCk_eq]
    rfl

end Sys2Proof.Machine
end

