-- ==== Sys2Proof/Laws/Exec.lean ====
section
/-! SUPPORT. Everything each shared operation, each meaning and one step can do. -/

namespace Sys2Proof.Machine

@[simp] theorem diagAfter_nil (s : State) : diagAfter s [] = s.diag := by
  unfold diagAfter; split <;> simp

/-- Records sent one after the other. -/
theorem diagAfter_emit (s : State) (r : DiagRec) (rs : List DiagRec) : diagAfter (s.emit r) rs = diagAfter s (r :: rs) := by
  unfold diagAfter State.emit
  cases h : s.cfg.diagEnable <;> simp [h]

/-- `discard(cls)` in the terms of claims (R226). -/
theorem discard_eq (s : State) (cls : BitVec 4) :
    s.discard cls = afterDiscard s cls (if malformedClass cls then [.malformed cls] else []) := by
  apply State.eq_of_fields <;> simp [afterDiscard]
  split <;> simp

theorem afterDiscard_emit (s : State) (r : DiagRec) (cls : BitVec 4) (rs : List DiagRec) :
    afterDiscard (s.emit r) cls rs = afterDiscard s cls (r :: rs) := by
  apply State.eq_of_fields <;> simp [afterDiscard, diagAfter_emit]

/-- Everything `onClass` can do when it answers a next state. -/
theorem onClass_next {i : Instr} {s t : State} {k : Outcome} (h : onClass i s k = .next t) :
    s.fsm = .proc ∧ (∃ v, fcv s = .ok v ∧ decodeFcv v = i) ∧ k = .next t := by
  unfold onClass at h
  split at h
  · split at h
    · cases h
    · split at h
      · exact ⟨‹_›, ⟨_, ‹_›, ‹_›⟩, h⟩
      · cases h
  · cases h

/-- EXEC's guard passes on a held frame of the class. -/
theorem onClass_holds {i : Instr} {s : State} {bs : List Byte} (k : Outcome) (h : HoldsFrame s bs)
    (hi : decodeFcv (fcvOf s.cfg.requireSyn s.responded bs) = i) : onClass i s k = k := by
  simp [onClass, h.inProc, fcv_holds h, hi]

theorem withIp_next {s t : State} {k : IpHeader → Outcome} (h : withIp s k = .next t) :
    ∃ ip, ipParsed s = .ok ip ∧ k ip = .next t := by
  unfold withIp at h
  split at h
  · cases h
  · exact ⟨_, ‹_›, h⟩

theorem withTcp_next {s t : State} {k : TcpHeader → Outcome} (h : withTcp s k = .next t) :
    ∃ tcp, tcpParsed s = .ok tcp ∧ k tcp = .next t := by
  unfold withTcp at h
  split at h
  · cases h
  · exact ⟨_, ‹_›, h⟩

theorem discardRaw_next {s t : State} {cls : BitVec 4} (h : discardRaw s cls = .next t) :
    ∃ recs, t = afterDiscard s cls recs := by
  cases h
  exact ⟨_, discard_eq s cls⟩

theorem discardIp_next {s t : State} {cls : BitVec 4} (h : discardIp s cls = .next t) :
    ∃ recs, t = afterDiscard s cls recs := by
  obtain ⟨ip, -, h⟩ := withIp_next h
  cases h
  exact ⟨_, by rw [discard_eq, afterDiscard_emit]⟩

theorem discardTcp_next {s t : State} {cls : BitVec 4} (h : discardTcp s cls = .next t) :
    ∃ recs, t = afterDiscard s cls recs := by
  obtain ⟨ip, -, h⟩ := withIp_next h
  obtain ⟨tcp, -, h⟩ := withTcp_next h
  cases h
  exact ⟨_, by rw [discard_eq, afterDiscard_emit, afterDiscard_emit]⟩

/-- Everything a class that is discarded or skipped can do (R97, R226). -/
theorem drop_cases {i : Instr} {s t : State} (hi : isDropClass i = true) (h : exec i s = .next t) :
    s.fsm = .proc ∧ (∃ v, fcv s = .ok v ∧ decodeFcv v = i) ∧ ∃ cls recs, cls ≠ 12 ∧ t = afterDiscard s cls recs := by
  cases i with
  | frmRunt | ipTrunc | ipBadver | ipBadihl | ipShorthdr | ipBadlen =>
    obtain ⟨h1, h2, h3⟩ := onClass_next h
    obtain ⟨recs, h4⟩ := discardRaw_next h3
    exact ⟨h1, h2, _, recs, by decide, h4⟩
  | ipNontcp | tcpTrunc | tcpBadoff | tcpShorthdr =>
    obtain ⟨h1, h2, h3⟩ := onClass_next h
    obtain ⟨recs, h4⟩ := discardIp_next h3
    exact ⟨h1, h2, _, recs, by decide, h4⟩
  | tcpNosyn | tcpDone =>
    obtain ⟨h1, h2, h3⟩ := onClass_next h
    obtain ⟨recs, h4⟩ := discardTcp_next h3
    exact ⟨h1, h2, _, recs, by decide, h4⟩
  | tcpReply | rxFrame | rxFail | txOk | txFail | reset => simp [isDropClass, isFrameClass] at hi

/-- The single-shot gate (43_responder.md R160): no vector is all zero once the block has responded. -/
theorem fcv_responded {s : State} {v : BitVec 12} (h : fcv s = .ok v) (hv : decodeFcv v = .tcpReply) :
    s.responded = false := by
  unfold fcv at h
  split at h
  · cases h; simp [decodeFcv] at hv
  split at h
  · cases h
  split at h
  · cases h; simp [decodeFcv] at hv
  split at h
  · cases h
  unfold fcvIp at h
  split at h
  · cases h; simp [decodeFcv] at hv
  split at h
  · cases h; simp [decodeFcv] at hv
  split at h
  · cases h; simp [decodeFcv] at hv
  split at h
  · cases h; simp [decodeFcv] at hv
  split at h
  · cases h; simp [decodeFcv] at hv
  split at h
  · cases h; simp [decodeFcv] at hv
  split at h
  · cases h
  cases h
  unfold fcvTcp at hv
  split at hv
  · simp [decodeFcv] at hv
  split at hv
  · simp [decodeFcv] at hv
  split at hv
  · simp [decodeFcv] at hv
  split at hv
  · simp [decodeFcv] at hv
  · simpa using ‹¬ s.responded = true›

/-- A block read answers as many bytes as it was asked for. -/
theorem rxBytes_length {s : State} {i n : Nat} {bs : List Byte} (h : rxBytes s i n = .ok bs) : bs.length = n := by
  induction n generalizing i bs with
  | zero => cases h; rfl
  | succ n ih =>
    unfold rxBytes at h
    split at h
    · cases h
    · split at h
      · cases h
      · cases h
        simp [ih ‹_›]

/-- DIAG_IPV4 and `discard(cls)` on a held frame whose IPv4 header parses. -/
theorem discardIp_holds {s : State} {bs : List Byte} (h : HoldsFrame s bs) (hi : Frame.IpOk bs) (cls : BitVec 4) :
    discardIp s cls =
      .next (afterDiscard s cls (ipv4RecordOf bs :: if malformedClass cls then [.malformed cls] else [])) := by
  simp [discardIp, withIp, ipParsed_holds h hi, discard_eq, afterDiscard_emit, ipv4RecordOf, ipv4Record]

/-- DIAG_IPV4, DIAG_TCP and `discard(cls)` on a held frame whose TCP header parses. -/
theorem discardTcp_holds {s : State} {bs : List Byte} (h : HoldsFrame s bs) (ht : Frame.TcpOk bs) (cls : BitVec 4) :
    discardTcp s cls =
      .next (afterDiscard s cls
        (ipv4RecordOf bs :: tcpRecordOf bs :: if malformedClass cls then [.malformed cls] else [])) := by
  simp [discardTcp, withIp, withTcp, ipParsed_holds h ht.held.ip, tcpParsed_holds h ht, discard_eq, afterDiscard_emit,
    ipv4RecordOf, ipv4Record, tcpRecordOf, tcpRecord, tcpPayloadLen]

/-- The reply path on a held frame whose TCP header parses: the two records, then what REPLY_BUILD ends in. -/
theorem replyPath_holds {s : State} {bs : List Byte} (h : HoldsFrame s bs) (ht : Frame.TcpOk bs) :
    replyPath s =
      .next (finishReply ((s.emit (ipv4RecordOf bs)).emit (tcpRecordOf bs))
        (buildReply s.cfg [Frame.byte bs 0, Frame.byte bs 1, Frame.byte bs 2, Frame.byte bs 3]
          (deriveReply (Frame.ip bs) (Frame.tcp bs)))) := by
  have h4 := ht.held.ip.len
  simp [replyPath, withIp, withTcp, ipParsed_holds h ht.held.ip, tcpParsed_holds h ht, rxPrefix_holds h (by omega),
    ipv4RecordOf, ipv4Record, tcpRecordOf, tcpRecord, tcpPayloadLen]

/-- A class statement from the value of the frame condition vector: the opcode row's match, and EXEC's guard passes. -/
theorem class_holds {s : State} {bs : List Byte} (h : HoldsFrame s bs) {w : BitVec 12}
    (hw : fcvOf s.cfg.requireSyn s.responded bs = w) {m r : BitVec 12} (hm : w &&& m = r) {i : Instr} (hi : decodeFcv w = i)
    (k : Outcome) : (∃ v, fcv s = .ok v ∧ v &&& m = r) ∧ onClass i s k = k :=
  ⟨⟨w, by rw [fcv_holds h, hw], hm⟩, onClass_holds k h (by rw [hw, hi])⟩

/-- Everything TCP_REPLY can do (R170, R230, R249). -/
theorem reply_cases {s t : State} (h : exec .tcpReply s = .next t) :
    s.fsm = .proc ∧ (∃ v, fcv s = .ok v ∧ decodeFcv v = .tcpReply) ∧ s.responded = false ∧
      ((s.cfg.txCap < 44 ∧ ∃ recs, t = afterFatalReply s 4 recs) ∨
        (44 ≤ s.cfg.txCap ∧ ∃ frame recs, frame.length = 44 ∧ t = afterReply s frame recs)) := by
  obtain ⟨h1, ⟨v, h2, h2'⟩, h3⟩ := onClass_next h
  refine ⟨h1, ⟨v, h2, h2'⟩, fcv_responded h2 h2', ?_⟩
  obtain ⟨ip, -, h4⟩ := withIp_next h3
  obtain ⟨tcp, -, h5⟩ := withTcp_next h4
  split at h5
  · cases h5
  · rename_i pre hpre
    cases h5
    by_cases hc : s.cfg.txCap < 44
    · refine .inl ⟨hc, [ipv4Record ip, tcpRecord ip tcp], ?_⟩
      have hb : buildReply s.cfg pre (deriveReply ip tcp) = .bufSmall := by simp [buildReply, hc]
      rw [hb]
      apply State.eq_of_fields <;> simp [finishReply, afterFatalReply, diagAfter_emit, codeBufSmall]
    · obtain ⟨frame, hl, hb⟩ := buildReply_length (c := s.cfg) (pre := pre) (r := deriveReply ip tcp) (by omega)
      refine .inr ⟨by omega, frame, [ipv4Record ip, tcpRecord ip tcp], by simp [hl, rxBytes_length hpre], ?_⟩
      rw [hb]
      apply State.eq_of_fields <;> simp [finishReply, afterReply, diagAfter_emit]

theorem onFsm_next {x : Fsm} {s t : State} {k : Outcome} (h : onFsm x s k = .next t) : s.fsm = x ∧ k = .next t := by
  unfold onFsm at h
  split at h
  · exact ⟨‹_›, h⟩
  · cases h

/-- Everything RX_FRAME can do (R232). -/
theorem rxFrame_cases {n : BitVec 11} {bs : List Byte} {s t : State} (h : exec (.rxFrame n bs) s = .next t) :
    s.fsm = .idle ∧ n.toNat ≤ 1504 ∧ bs.length = n.toNat ∧ t = s.receive n bs := by
  obtain ⟨h1, h2⟩ := onFsm_next h
  split at h2
  · cases h2
  · rename_i h3
    simp only [Config.rxCap, Nat.not_lt] at h3
    split at h2
    · cases h2
      exact ⟨h1, h3, ‹_›, rfl⟩
    · cases h2

/-- Everything RX_FAIL can do (R233). -/
theorem rxFail_cases {s t : State} (h : exec .rxFail s = .next t) : s.fsm = .idle ∧ t = s.raiseFatal 1 := by
  obtain ⟨h1, h2⟩ := onFsm_next h
  cases h2
  exact ⟨h1, rfl⟩

/-- Everything TX_OK can do (R234). -/
theorem txOk_cases {s t : State} (h : exec .txOk s = .next t) :
    s.fsm = .send ∧ ∃ frame, txFrame s = .ok frame ∧ t = (s.emit (.reply s.txLen frame)).setFsm .idle := by
  obtain ⟨h1, h2⟩ := onFsm_next h
  split at h2
  · cases h2
  · cases h2
    exact ⟨h1, _, ‹_›, rfl⟩

/-- Everything TX_FAIL can do (R235). -/
theorem txFail_cases {s t : State} (h : exec .txFail s = .next t) : s.fsm = .send ∧ t = s.raiseFatal 2 := by
  obtain ⟨h1, h2⟩ := onFsm_next h
  cases h2
  exact ⟨h1, rfl⟩

/-- Everything RESET can do (R300). -/
theorem reset_cases {s t : State} (h : exec .reset s = .next t) : t = s.doReset := by
  cases h
  rfl

/-- Everything an instruction can do when it has a next state, one disjunct per row of the transition table (46_validation_fsm.md
R230). -/
theorem exec_cases {i : Instr} {s t : State} (h : exec i s = .next t) :
    (∃ cls recs, isDropClass i = true ∧ cls ≠ 12 ∧ s.fsm = .proc ∧ t = afterDiscard s cls recs) ∨
    (i = .tcpReply ∧ s.fsm = .proc ∧ s.responded = false ∧ s.cfg.txCap < 44 ∧ ∃ recs, t = afterFatalReply s 4 recs) ∨
    (i = .tcpReply ∧ s.fsm = .proc ∧ s.responded = false ∧ 44 ≤ s.cfg.txCap ∧
      ∃ frame recs, frame.length = 44 ∧ t = afterReply s frame recs) ∨
    (∃ n bs, i = .rxFrame n bs ∧ s.fsm = .idle ∧ n.toNat ≤ 1504 ∧ bs.length = n.toNat ∧ t = s.receive n bs) ∨
    (i = .rxFail ∧ s.fsm = .idle ∧ t = s.raiseFatal 1) ∨
    (i = .txOk ∧ s.fsm = .send ∧ ∃ frame, txFrame s = .ok frame ∧ t = (s.emit (.reply s.txLen frame)).setFsm .idle) ∨
    (i = .txFail ∧ s.fsm = .send ∧ t = s.raiseFatal 2) ∨
    (i = .reset ∧ t = s.doReset) := by
  by_cases hd : isDropClass i = true
  · obtain ⟨h1, -, cls, recs, h2, h3⟩ := drop_cases hd h
    exact .inl ⟨cls, recs, hd, h2, h1, h3⟩
  right
  cases i with
  | tcpReply =>
    obtain ⟨h1, -, h2, ⟨h3, h4⟩ | ⟨h3, h4⟩⟩ := reply_cases h
    · exact .inl ⟨rfl, h1, h2, h3, h4⟩
    · exact .inr (.inl ⟨rfl, h1, h2, h3, h4⟩)
  | rxFrame n bs =>
    obtain ⟨h1, h2, h3, h4⟩ := rxFrame_cases h
    exact .inr (.inr (.inl ⟨n, bs, rfl, h1, h2, h3, h4⟩))
  | rxFail =>
    obtain ⟨h1, h2⟩ := rxFail_cases h
    exact .inr (.inr (.inr (.inl ⟨rfl, h1, h2⟩)))
  | txOk =>
    obtain ⟨h1, h2⟩ := txOk_cases h
    exact .inr (.inr (.inr (.inr (.inl ⟨rfl, h1, h2⟩))))
  | txFail =>
    obtain ⟨h1, h2⟩ := txFail_cases h
    exact .inr (.inr (.inr (.inr (.inr (.inl ⟨rfl, h1, h2⟩)))))
  | reset => exact .inr (.inr (.inr (.inr (.inr (.inr ⟨rfl, reset_cases h⟩)))))
  | _ => exact absurd rfl hd

/-- A host word decodes to a host event or RESET, to RESET exactly when `rst` is asserted (R99, R221). -/
theorem decodeHost_cases {w : HostWord} {i : Instr} (h : decode (.host w) = .ok i) :
    isFrameClass i = false ∧ (i = .reset ↔ w.rst = true) := by
  simp only [decode, decodeHost] at h
  split at h
  · rename_i hr
    cases h
    exact ⟨rfl, by simp [hr]⟩
  · rename_i hr
    split at h
    · unfold decodeRxFrame at h
      split at h
      · cases h
      · split at h
        · cases h
          exact ⟨rfl, by simp [hr]⟩
        · cases h
    · cases h
      exact ⟨rfl, by simp [hr]⟩
    · cases h
      exact ⟨rfl, by simp [hr]⟩
    · cases h
      exact ⟨rfl, by simp [hr]⟩

/-- A frame condition vector decodes to a frame class (R96). -/
theorem decodeFcv_isFrameClass (v : BitVec 12) : isFrameClass (decodeFcv v) = true := by
  unfold decodeFcv
  repeat' split
  all_goals rfl

/-- Everything the block's turn can do (R222, R224). -/
theorem fetchBlock_run {s s' : State} {i : Instr} (h : fetchBlock s = .run i s') :
    s' = s ∧ s.fsm = .proc ∧ isFrameClass i = true := by
  unfold fetchBlock at h
  split at h
  · split at h
    · cases h
    · simp only [decode] at h
      cases h
      exact ⟨rfl, ‹_›, decodeFcv_isFrameClass _⟩
  · cases h

/-- Everything the host's turn can do (R99). -/
theorem fetchHost_run {w : HostWord} {s s' : State} {i : Instr} (h : fetchHost w s = .run i s') :
    s' = s ∧ decode (.host w) = .ok i := by
  unfold fetchHost at h
  split at h
  · cases h
  · cases h
    exact ⟨rfl, ‹_›⟩

theorem turns_nil {s : State} (h : s.turns = []) : { s with turns := [] } = s := by
  cases s
  simp_all

/-- Everything one step can do: it runs one instruction on the state with its turn taken off, a frame class on the block's turn in
PROC, or what the host's word says on the host's turn. -/
theorem step_cases {s t : State} (h : step s = .next t) :
    ∃ i, exec i { s with turns := s.turns.tail } = .next t ∧
      ((isFrameClass i = true ∧ s.fsm = .proc ∧ ∀ w, s.turns.head? ≠ some (.host w)) ∨
        (∃ w, s.turns.head? = some (.host w) ∧ decode (.host w) = .ok i)) := by
  unfold step at h
  split at h
  · rename_i i s' hf
    unfold fetch at hf
    split at hf
    · rename_i ht
      obtain ⟨rfl, h1, h2⟩ := fetchBlock_run hf
      refine ⟨i, ?_, .inl ⟨h2, h1, by simp [ht]⟩⟩
      rw [ht, List.tail_nil, turns_nil ht]
      exact h
    · rename_i ts ht
      obtain ⟨rfl, h1, h2⟩ := fetchBlock_run hf
      exact ⟨i, by rw [ht]; exact h, .inl ⟨h2, h1, by simp [ht]⟩⟩
    · rename_i w ts ht
      obtain ⟨rfl, h1⟩ := fetchHost_run hf
      exact ⟨i, by rw [ht]; exact h, .inr ⟨w, by simp [ht], h1⟩⟩
  · cases h
  · cases h

end Sys2Proof.Machine
end

