-- ==== Sys2Proof/Laws/PerInstr.lean ====
section
/-! SUPPORT. The family RowMatch: every instruction's encoding is a word of its own row of spec/opcode_table.json. -/

namespace Sys2Proof.Laws

/-- The mask and match columns of the opcode table, in its order (30_encoding.md R96, R99). -/
def RowMatch.row : Instr → Nat × Nat
  | .frmRunt => (0x001, 0x001)
  | .ipTrunc => (0x003, 0x002)
  | .ipBadver => (0x007, 0x004)
  | .ipBadihl => (0x00F, 0x008)
  | .ipShorthdr => (0x01F, 0x010)
  | .ipBadlen => (0x03F, 0x020)
  | .ipNontcp => (0x07F, 0x040)
  | .tcpTrunc => (0x0FF, 0x080)
  | .tcpBadoff => (0x1FF, 0x100)
  | .tcpShorthdr => (0x3FF, 0x200)
  | .tcpNosyn => (0x7FF, 0x400)
  | .tcpDone => (0xFFF, 0x800)
  | .tcpReply => (0xFFF, 0x000)
  | .rxFrame _ _ => (0x3, 0x0)
  | .rxFail => (0x3, 0x1)
  | .txOk => (0x3, 0x2)
  | .txFail => (0x3, 0x3)
  | .reset => (0x1, 0x1)

/-- The word of an instruction's encoding that its row's columns are about: FCV, `hev`, or `rst` for RESET. -/
def RowMatch.word (i : Instr) : Nat :=
  match encode i with
  | .frame v => v.toNat
  | .host w => if i = .reset then w.rst.toNat else w.hev.toNat

/-- The encoding of `i` matches the row of `i`, and a host event's does not assert `rst`. -/
def RowMatch.Statement (i : Instr) : Prop :=
  RowMatch.word i &&& (RowMatch.row i).1 = (RowMatch.row i).2 ∧
    ∀ w, encode i = .host w → (w.rst = true ↔ i = .reset)

theorem RowMatch.frmRunt : RowMatch.Statement .frmRunt := ⟨by decide, fun _ h => nomatch h⟩
theorem RowMatch.ipTrunc : RowMatch.Statement .ipTrunc := ⟨by decide, fun _ h => nomatch h⟩
theorem RowMatch.ipBadver : RowMatch.Statement .ipBadver := ⟨by decide, fun _ h => nomatch h⟩
theorem RowMatch.ipBadihl : RowMatch.Statement .ipBadihl := ⟨by decide, fun _ h => nomatch h⟩
theorem RowMatch.ipShorthdr : RowMatch.Statement .ipShorthdr := ⟨by decide, fun _ h => nomatch h⟩
theorem RowMatch.ipBadlen : RowMatch.Statement .ipBadlen := ⟨by decide, fun _ h => nomatch h⟩
theorem RowMatch.ipNontcp : RowMatch.Statement .ipNontcp := ⟨by decide, fun _ h => nomatch h⟩
theorem RowMatch.tcpTrunc : RowMatch.Statement .tcpTrunc := ⟨by decide, fun _ h => nomatch h⟩
theorem RowMatch.tcpBadoff : RowMatch.Statement .tcpBadoff := ⟨by decide, fun _ h => nomatch h⟩
theorem RowMatch.tcpShorthdr : RowMatch.Statement .tcpShorthdr := ⟨by decide, fun _ h => nomatch h⟩
theorem RowMatch.tcpNosyn : RowMatch.Statement .tcpNosyn := ⟨by decide, fun _ h => nomatch h⟩
theorem RowMatch.tcpDone : RowMatch.Statement .tcpDone := ⟨by decide, fun _ h => nomatch h⟩
theorem RowMatch.tcpReply : RowMatch.Statement .tcpReply := ⟨by decide, fun _ h => nomatch h⟩
theorem RowMatch.rxFrame (n : BitVec 11) (bytes : List Byte) : RowMatch.Statement (.rxFrame n bytes) :=
  ⟨by simp [RowMatch.word, encode, RowMatch.row], fun _ h => by cases h; simp⟩
theorem RowMatch.rxFail : RowMatch.Statement .rxFail := ⟨by decide, fun _ h => by cases h; decide⟩
theorem RowMatch.txOk : RowMatch.Statement .txOk := ⟨by decide, fun _ h => by cases h; decide⟩
theorem RowMatch.txFail : RowMatch.Statement .txFail := ⟨by decide, fun _ h => by cases h; decide⟩
theorem RowMatch.reset : RowMatch.Statement .reset := ⟨by decide, fun _ h => by cases h; decide⟩

end Sys2Proof.Laws
end

