-- ==== Sys2Proof/Tests/Slice0.lean ====
section
/-! SUPPORT. The model's own tests: the ill-formed terms WellFormed refuses, words of the opcode table decoded, one step on the
vectors of 95_test_vectors.md (expected results from there), and one witness for the hypotheses of each obligation. -/

namespace Sys2Proof.Tests
open Sys2Proof.Machine

/-! ### The vectors' frames -/

/-- Vector V1 (95_test_vectors.md 2.1). The scenario of the document. -/
def frameV1 : List Byte :=
  [0x00, 0x00, 0x08, 0x00, 0x45, 0x00, 0x00, 0x28, 0x00, 0x00, 0x40, 0x00, 0x40, 0x06, 0x70, 0x1c, 0x0a, 0x00, 0x00, 0x02, 0xc0, 0xa8,
   0x00, 0x0a, 0xc3, 0x50, 0x00, 0x50, 0x00, 0x00, 0x03, 0xe8, 0x00, 0x00, 0x00, 0x00, 0x50, 0x02, 0xff, 0xff, 0x1d, 0xa6, 0x00, 0x00]

/-- Vector V3 (95_test_vectors.md 2.1). UDP, shorter than a TCP header. -/
def frameV3 : List Byte :=
  [0x00, 0x00, 0x08, 0x00, 0x45, 0x00, 0x00, 0x1c, 0x00, 0x00, 0x40, 0x00, 0x40, 0x11, 0x70, 0x1d, 0x0a, 0x00, 0x00, 0x02, 0xc0, 0xa8,
   0x00, 0x0a, 0x00, 0x00, 0x00, 0x00, 0x00, 0x00, 0x00, 0x00]

/-- Vector V5 (95_test_vectors.md 2.1). IP slice of 19 bytes. -/
def frameV5 : List Byte :=
  [0x00, 0x00, 0x08, 0x00, 0x45, 0x00, 0x00, 0x28, 0x00, 0x00, 0x40, 0x00, 0x40, 0x06, 0x70, 0x1c, 0x0a, 0x00, 0x00, 0x02, 0xc0, 0xa8,
   0x00]

/-- Vector V7 (95_test_vectors.md 2.1). IHL 4. -/
def frameV7 : List Byte :=
  [0x00, 0x00, 0x08, 0x00, 0x44, 0x00, 0x00, 0x28, 0x00, 0x00, 0x40, 0x00, 0x40, 0x06, 0x71, 0x1c, 0x0a, 0x00, 0x00, 0x02, 0xc0, 0xa8,
   0x00, 0x0a, 0xc3, 0x50, 0x00, 0x50, 0x00, 0x00, 0x03, 0xe8, 0x00, 0x00, 0x00, 0x00, 0x50, 0x02, 0xff, 0xff, 0x1d, 0xa6, 0x00, 0x00]

/-- Vector V8 (95_test_vectors.md 2.1). IHL 6 with a 20-byte slice. -/
def frameV8 : List Byte :=
  [0x00, 0x00, 0x08, 0x00, 0x46, 0x00, 0x00, 0x18, 0x00, 0x00, 0x40, 0x00, 0x40, 0x06, 0x6f, 0x2c, 0x0a, 0x00, 0x00, 0x02, 0xc0, 0xa8,
   0x00, 0x0a]

/-- Vector V9 (95_test_vectors.md 2.1). Total length 60, slice 40. -/
def frameV9 : List Byte :=
  [0x00, 0x00, 0x08, 0x00, 0x45, 0x00, 0x00, 0x3c, 0x00, 0x00, 0x40, 0x00, 0x40, 0x06, 0x70, 0x08, 0x0a, 0x00, 0x00, 0x02, 0xc0, 0xa8,
   0x00, 0x0a, 0xc3, 0x50, 0x00, 0x50, 0x00, 0x00, 0x03, 0xe8, 0x00, 0x00, 0x00, 0x00, 0x50, 0x02, 0xff, 0xff, 0x1d, 0xa6, 0x00, 0x00]

/-- Vector V10 (95_test_vectors.md 2.1). Total length 16. -/
def frameV10 : List Byte :=
  [0x00, 0x00, 0x08, 0x00, 0x45, 0x00, 0x00, 0x10, 0x00, 0x00, 0x40, 0x00, 0x40, 0x06, 0x70, 0x34, 0x0a, 0x00, 0x00, 0x02, 0xc0, 0xa8,
   0x00, 0x0a, 0xc3, 0x50, 0x00, 0x50, 0x00, 0x00, 0x03, 0xe8, 0x00, 0x00, 0x00, 0x00, 0x50, 0x02, 0xff, 0xff, 0x1d, 0xa6, 0x00, 0x00]

/-- Vector V11 (95_test_vectors.md 2.1). TCP slice of 19 bytes. -/
def frameV11 : List Byte :=
  [0x00, 0x00, 0x08, 0x00, 0x45, 0x00, 0x00, 0x27, 0x00, 0x00, 0x40, 0x00, 0x40, 0x06, 0x70, 0x1d, 0x0a, 0x00, 0x00, 0x02, 0xc0, 0xa8,
   0x00, 0x0a, 0xc3, 0x50, 0x00, 0x50, 0x00, 0x00, 0x03, 0xe8, 0x00, 0x00, 0x00, 0x00, 0x50, 0x02, 0xff, 0xff, 0x1d, 0xa6, 0x00]

/-- Vector V12 (95_test_vectors.md 2.1). Data offset 4. -/
def frameV12 : List Byte :=
  [0x00, 0x00, 0x08, 0x00, 0x45, 0x00, 0x00, 0x28, 0x00, 0x00, 0x40, 0x00, 0x40, 0x06, 0x70, 0x1c, 0x0a, 0x00, 0x00, 0x02, 0xc0, 0xa8,
   0x00, 0x0a, 0xc3, 0x50, 0x00, 0x50, 0x00, 0x00, 0x03, 0xe8, 0x00, 0x00, 0x00, 0x00, 0x40, 0x02, 0xff, 0xff, 0x2d, 0xa6, 0x00, 0x00]

/-- Vector V13 (95_test_vectors.md 2.1). Data offset 8 with a 20-byte TCP slice. -/
def frameV13 : List Byte :=
  [0x00, 0x00, 0x08, 0x00, 0x45, 0x00, 0x00, 0x28, 0x00, 0x00, 0x40, 0x00, 0x40, 0x06, 0x70, 0x1c, 0x0a, 0x00, 0x00, 0x02, 0xc0, 0xa8,
   0x00, 0x0a, 0xc3, 0x50, 0x00, 0x50, 0x00, 0x00, 0x03, 0xe8, 0x00, 0x00, 0x00, 0x00, 0x80, 0x02, 0xff, 0xff, 0xed, 0xa5, 0x00, 0x00]

/-- Vector V14 (95_test_vectors.md 2.1). ACK only. -/
def frameV14 : List Byte :=
  [0x00, 0x00, 0x08, 0x00, 0x45, 0x00, 0x00, 0x28, 0x00, 0x00, 0x40, 0x00, 0x40, 0x06, 0x70, 0x1c, 0x0a, 0x00, 0x00, 0x02, 0xc0, 0xa8,
   0x00, 0x0a, 0xc3, 0x50, 0x00, 0x50, 0x00, 0x00, 0x03, 0xe8, 0x00, 0x00, 0x00, 0x01, 0x50, 0x10, 0xff, 0xff, 0x1d, 0x97, 0x00, 0x00]

/-- Vector V16 (95_test_vectors.md 2.1). IPv4 and TCP options. -/
def frameV16 : List Byte :=
  [0x00, 0x00, 0x08, 0x00, 0x46, 0x00, 0x00, 0x30, 0x00, 0x00, 0x40, 0x00, 0x40, 0x06, 0x6d, 0x13, 0x0a, 0x00, 0x00, 0x02, 0xc0, 0xa8,
   0x00, 0x0a, 0x01, 0x01, 0x01, 0x00, 0x9c, 0x40, 0x01, 0xbb, 0x12, 0x34, 0x56, 0x78, 0x00, 0x00, 0x00, 0x00, 0x60, 0x02, 0x03, 0xe8,
   0xc2, 0xe2, 0x00, 0x00, 0x02, 0x04, 0x05, 0xb4]

/-- Vector V17 (95_test_vectors.md 2.1). V1 with wrong checksums. -/
def frameV17 : List Byte :=
  [0x00, 0x00, 0x08, 0x00, 0x45, 0x00, 0x00, 0x28, 0x00, 0x00, 0x40, 0x00, 0x40, 0x06, 0x00, 0x00, 0x0a, 0x00, 0x00, 0x02, 0xc0, 0xa8,
   0x00, 0x0a, 0xc3, 0x50, 0x00, 0x50, 0x00, 0x00, 0x03, 0xe8, 0x00, 0x00, 0x00, 0x00, 0x50, 0x02, 0xff, 0xff, 0x00, 0x00, 0x00, 0x00]

/-- Vector V26 (95_test_vectors.md 2.1). Version 6 and a 10-byte slice. -/
def frameV26 : List Byte :=
  [0x00, 0x00, 0x08, 0x00, 0x60, 0x00, 0x00, 0x00, 0x00, 0x00, 0x00, 0x00, 0x00, 0x00]

/-- Vector V27 (95_test_vectors.md 2.1). Empty TCP slice. -/
def frameV27 : List Byte :=
  [0x00, 0x00, 0x08, 0x00, 0x45, 0x00, 0x00, 0x14, 0x00, 0x00, 0x40, 0x00, 0x40, 0x06, 0x70, 0x30, 0x0a, 0x00, 0x00, 0x02, 0xc0, 0xa8,
   0x00, 0x0a]

/-- Vector V6 (95_test_vectors.md 2.1). Version 6. -/
def frameV6 : List Byte :=
  [0x00, 0x00, 0x08, 0x00, 0x60, 0x00, 0x00, 0x00, 0x00, 0x14, 0x06, 0x40] ++ List.replicate 32 0

/-- The reply to V1 (95_test_vectors.md 2.6). -/
def replyV1 : List Byte :=
  [0x00, 0x00, 0x08, 0x00, 0x45, 0x00, 0x00, 0x28, 0x00, 0x00, 0x00, 0x00, 0x40, 0x06, 0xb0, 0x1c, 0xc0, 0xa8, 0x00, 0x0a, 0x0a, 0x00,
   0x00, 0x02, 0x00, 0x50, 0xc3, 0x50, 0x00, 0x00, 0x00, 0x00, 0x00, 0x00, 0x03, 0xe9, 0x50, 0x12, 0xff, 0xff, 0x1d, 0x95, 0x00, 0x00]

/-- The reply to V16 (95_test_vectors.md 2.6). -/
def replyV16 : List Byte :=
  [0x00, 0x00, 0x08, 0x00, 0x45, 0x00, 0x00, 0x28, 0x00, 0x00, 0x00, 0x00, 0x40, 0x06, 0xb0, 0x1c, 0xc0, 0xa8, 0x00, 0x0a, 0x0a, 0x00,
   0x00, 0x02, 0x01, 0xbb, 0x9c, 0x40, 0x00, 0x00, 0x00, 0x00, 0x12, 0x34, 0x56, 0x79, 0x50, 0x12, 0x03, 0xe8, 0xda, 0x8d, 0x00, 0x00]

/-- `A` of the vectors, 10.0.0.2. -/
abbrev addrA : BitVec 32 := 0x0A000002
/-- `B` of the vectors, 192.168.0.10. -/
abbrev addrB : BitVec 32 := 0xC0A8000A

/-! ### Small states -/

/-- PROC holding the frame `bs`, the block's turn. -/
def held (r : Bool) (c : Params) (bs : List Byte) : State :=
  { State.reset with
    fsm := .proc
    responded := r
    cfg := c
    rxLen := BitVec.ofNat 11 bs.length
    rx := Memory.cells 0 bs }

/-- PROC holding `bs` right after reset, in the default configuration. -/
def fresh (bs : List Byte) : State := held false Params.defaults bs

/-- SEND offering the reply to V1. -/
def sending : State :=
  { State.reset with fsm := .send, responded := true, txLen := 44, tx := Memory.cells 0 replyV1 }

/-- IDLE with a stale frame in RX. -/
def idleStale : State := { State.reset with rxLen := 44, rx := Memory.cells 0 frameV1 }

/-- HALT after a write failure. -/
def halted2 : State := { sending with fsm := .halt, fault := 2 }

/-- The configuration with another `TX_CAP`. -/
def capOf (n : Nat) : Params := { Params.defaults with txCap := n }

/-- The configuration with `REQUIRE_SYN = false`. -/
def anySegment : Params := { Params.defaults with requireSyn := false }

/-- The outcome is a next state with the property. -/
def nextThat (o : Outcome) (p : State → Bool) : Bool :=
  match o with
  | .next t => p t
  | .fault _ => false
  | .refused _ => false

theorem nextThat_spec {o : Outcome} {p : State → Bool} (h : nextThat o p = true) : ∃ t, o = .next t ∧ p t = true := by
  cases o with
  | next t => exact ⟨t, rfl, h⟩
  | fault f => cases h
  | refused r => cases h

/-- The outcome is a refusal for the reason. -/
def refusedAs (o : Outcome) (r : Refusal) : Bool :=
  match o with
  | .refused r' => r' = r
  | .fault _ => false
  | .next _ => false

/-- IDLE, not responded, no fault, the label `cls` and the records. -/
def dropped (r : Bool) (cls : BitVec 4) (recs : List DiagRec) (t : State) : Bool :=
  t.fsm = .idle && t.responded = r && t.fault = 0 && t.labels = [{ cls := cls, fatal := none }] && t.diag = recs

/-- SEND, responded, no fault, class 12, and the reply in TX. -/
def replied (reply : List Byte) (t : State) : Bool :=
  t.fsm = .send && t.responded && t.fault = 0 && t.labels = [{ cls := 12, fatal := none }] && t.txLen = 44 &&
    t.tx = Memory.cells 0 reply

/-- DIAG_IPV4 from `A` to `B` with TTL 64, as most vectors have it. -/
def recIp (len : BitVec 16) (proto : BitVec 8) : DiagRec := .ipv4 addrA addrB len proto 64

/-- DIAG_TCP `A:50000 -> B:80` without payload. -/
def recTcp : DiagRec := .tcp addrA 50000 addrB 80 0

/-! ### WellFormed refuses -/

theorem test_wf_too_long : Instr.wellFormed (.rxFrame 1505 (List.replicate 1505 0)) = false := by decide
theorem test_wf_length_mismatch : Instr.wellFormed (.rxFrame 3 [0x00, 0x00]) = false := by decide
theorem test_wf_bounds : Instr.wellFormed (.rxFrame 0 []) = true ∧ Instr.wellFormed (.rxFrame 1504 (List.replicate 1504 0)) = true := by
  simp only [Instr.wellFormed, List.length_replicate]
  decide

/-! ### Decoding: a word of every row, written out from 30_encoding.md R96 and R99 -/

theorem test_decode_frmRunt : decode (.frame 0b000000000001) = .ok .frmRunt := by decide
theorem test_decode_ipTrunc : decode (.frame 0b000000000010) = .ok .ipTrunc := by decide
theorem test_decode_ipBadver : decode (.frame 0b000000000100) = .ok .ipBadver := by decide
theorem test_decode_ipBadihl : decode (.frame 0b000000001000) = .ok .ipBadihl := by decide
theorem test_decode_ipShorthdr : decode (.frame 0b000000010000) = .ok .ipShorthdr := by decide
theorem test_decode_ipBadlen : decode (.frame 0b000000100000) = .ok .ipBadlen := by decide
theorem test_decode_ipNontcp : decode (.frame 0b000001000000) = .ok .ipNontcp := by decide
theorem test_decode_tcpTrunc : decode (.frame 0b000010000000) = .ok .tcpTrunc := by decide
theorem test_decode_tcpBadoff : decode (.frame 0b000100000000) = .ok .tcpBadoff := by decide
theorem test_decode_tcpShorthdr : decode (.frame 0b001000000000) = .ok .tcpShorthdr := by decide
theorem test_decode_tcpNosyn : decode (.frame 0b010000000000) = .ok .tcpNosyn := by decide
theorem test_decode_tcpDone : decode (.frame 0b100000000000) = .ok .tcpDone := by decide
theorem test_decode_tcpReply : decode (.frame 0b000000000000) = .ok .tcpReply := by decide
theorem test_decode_rxFrame :
    decode (.host { rst := false, hev := 0b00, n := 3, bytes := [0x00, 0x00, 0x08] }) = .ok (.rxFrame 3 [0x00, 0x00, 0x08]) := by
  decide
theorem test_decode_rxFail : decode (.host { rst := false, hev := 0b01, n := 0, bytes := [] }) = .ok .rxFail := by decide
theorem test_decode_txOk : decode (.host { rst := false, hev := 0b10, n := 0, bytes := [] }) = .ok .txOk := by decide
theorem test_decode_txFail : decode (.host { rst := false, hev := 0b11, n := 0, bytes := [] }) = .ok .txFail := by decide
theorem test_decode_reset : decode (.host { rst := true, hev := 0b01, n := 0, bytes := [] }) = .ok .reset := by decide
/-- Bits above the lowest 1 are don't-care (30_encoding.md R95). -/
theorem test_decode_dont_care : decode (.frame 0b111111100000) = .ok .ipBadlen ∧ decode (.frame 0b110000000000) = .ok .tcpNosyn := by
  decide
/-- A frame of 1505 bytes, or one whose length is not `n`, is no event (46_validation_fsm.md R232). -/
theorem test_decode_rejects :
    decode (.host { rst := false, hev := 0, n := 1505, bytes := List.replicate 1505 0 }) = .error .frameTooLong ∧
      decode (.host { rst := false, hev := 0, n := 3, bytes := [] }) = .error .lengthMismatch := by decide

/-! ### One step on the vectors of 95_test_vectors.md 2.1 -/

theorem test_frmRunt : nextThat (step (fresh [0x00, 0x00, 0x08])) (dropped false 0 [.malformed 0]) = true := by decide
theorem test_frmRunt_empty : nextThat (step (fresh [])) (dropped false 0 [.malformed 0]) = true := by decide
theorem test_ipTrunc : nextThat (step (fresh frameV5)) (dropped false 1 [.malformed 1]) = true := by decide
theorem test_ipTrunc_before_version : nextThat (step (fresh frameV26)) (dropped false 1 [.malformed 1]) = true := by decide
theorem test_ipBadver : nextThat (step (fresh frameV6)) (dropped false 2 [.malformed 2]) = true := by decide
theorem test_ipBadver_before_ihl : nextThat (step (fresh (frameV1.set 4 0x64))) (dropped false 2 [.malformed 2]) = true := by decide
theorem test_ipBadihl : nextThat (step (fresh frameV7)) (dropped false 3 [.malformed 3]) = true := by decide
theorem test_ipShorthdr : nextThat (step (fresh frameV8)) (dropped false 4 [.malformed 4]) = true := by decide
theorem test_ipBadlen_long : nextThat (step (fresh frameV9)) (dropped false 5 [.malformed 5]) = true := by decide
theorem test_ipBadlen_short : nextThat (step (fresh frameV10)) (dropped false 5 [.malformed 5]) = true := by decide
theorem test_ipNontcp : nextThat (step (fresh frameV3)) (dropped false 6 [recIp 8 17]) = true := by decide
theorem test_tcpTrunc : nextThat (step (fresh frameV11)) (dropped false 7 [recIp 19 6, .malformed 7]) = true := by decide
theorem test_tcpTrunc_empty : nextThat (step (fresh frameV27)) (dropped false 7 [recIp 0 6, .malformed 7]) = true := by decide
theorem test_tcpBadoff : nextThat (step (fresh frameV12)) (dropped false 8 [recIp 20 6, .malformed 8]) = true := by decide
/-- A malformed frame is reported as malformed even after the reply (95_test_vectors.md 2.5). -/
theorem test_tcpBadoff_before_gate :
    nextThat (step (held true Params.defaults frameV12)) (dropped true 8 [recIp 20 6, .malformed 8]) = true := by decide
theorem test_tcpShorthdr : nextThat (step (fresh frameV13)) (dropped false 9 [recIp 20 6, .malformed 9]) = true := by decide
theorem test_tcpNosyn : nextThat (step (fresh frameV14)) (dropped false 10 [recIp 20 6, recTcp]) = true := by decide
/-- With `REQUIRE_SYN = false` the same frame is answered with V1's reply (95_test_vectors.md 2.5). -/
theorem test_tcpNosyn_not_required : nextThat (step (held false anySegment frameV14)) (replied replyV1) = true := by decide
theorem test_tcpDone :
    nextThat (step (held true Params.defaults frameV1)) (dropped true 11 [recIp 20 6, recTcp]) = true := by decide
theorem test_tcpReply :
    nextThat (step (fresh frameV1)) (fun t => replied replyV1 t && t.diag = [recIp 20 6, recTcp]) = true ∧
      nextThat (step (fresh frameV16))
        (fun t => replied replyV16 t && t.diag = [recIp 24 6, .tcp addrA 40000 addrB 443 0]) = true := by decide
/-- BUF_SMALL (95_test_vectors.md V25b). -/
theorem test_bufSmall :
    nextThat (step (held false (capOf 43) frameV1))
      (fun t => t.fsm = .halt && t.fault = 4 && !t.responded && t.tx = [] && t.diag = [recIp 20 6, recTcp] &&
        t.labels = [{ cls := 12, fatal := some 4 }]) = true := by decide
/-- CSUM_FAIL under both policies (95_test_vectors.md K11), which no frame reaches. -/
theorem test_csumFail :
    (finishReply (fresh frameV1) .csumFail).fsm = .halt ∧ (finishReply (fresh frameV1) .csumFail).fault = 3 ∧
      (finishReply (held false { Params.defaults with csumFailPolicy := .discard } frameV1) .csumFail).fsm = .idle ∧
      tcpChecksum 0 0 6 (List.replicate 65536 0) = none := by
  exact ⟨rfl, rfl, rfl, if_pos (by rw [List.length_replicate]; decide)⟩

/-! ### Host events (95_test_vectors.md 2.8) -/

theorem test_rxFrame :
    nextThat (exec (.rxFrame 3 [0x11, 0x22, 0x33]) idleStale)
      (fun t => t.fsm = .proc && t.rxLen = 3 && t.rx = Memory.cells 0 ([0x11, 0x22, 0x33] ++ frameV1.drop 3)) = true := by decide
theorem test_rxFrame_not_in_proc : refusedAs (exec (.rxFrame 0 []) (fresh frameV1)) .notEnabled = true := by decide
theorem test_rxFail : nextThat (exec .rxFail State.reset) (fun t => t.fsm = .halt && t.fault = 1 && !t.responded) = true := by decide
theorem test_txOk :
    nextThat (exec .txOk sending) (fun t => t.fsm = .idle && t.responded && t.diag = [.reply 44 replyV1]) = true := by decide
/-- The transmit port offers the frame in SEND only, though TX keeps it (93_implementation_defined.md I6). -/
theorem test_txFrame : txFrame sending = .ok replyV1 ∧ txFrame halted2 = .error .txNotOffered := by decide
theorem test_txOk_not_in_idle : refusedAs (exec .txOk State.reset) .notEnabled = true := by decide
theorem test_txFail :
    nextThat (exec .txFail sending) (fun t => t.fsm = .halt && t.fault = 2 && t.responded && t.diag = []) = true := by decide
theorem test_reset : nextThat (exec .reset halted2) (fun t => t.fsm = .idle && t.fault = 0 && !t.responded && t.tx = []) = true := by decide

/-! ### The checksum engine (95_test_vectors.md 2.7) -/

theorem test_checksum_odd : onesSum [0x01, 0x02, 0x03] = 0x0402 ∧ csum16 [0x01, 0x02, 0x03] = 0xFBFD := by decide
theorem test_checksum_zero : onesSum [0xff, 0xff] = 0xFFFF ∧ csum16 [0xff, 0xff] = 0x0000 := by decide
theorem test_checksum_pseudo : onesSum (pseudoHeader addrB addrA 6 20) = 0xCACE := by decide

/-! ### Words of the opcode table fetched and run (log entries 9 and 10) -/

theorem test_fetch_classes :
    nextThat (step (State.reset.withFetchWord 16 0)) (fun t => t.labels = [{ cls := 12, fatal := none }]) = true ∧
      nextThat (step (State.reset.withFetchWord 16 0x800)) (fun t => t.labels = [{ cls := 11, fatal := none }]) = true ∧
      nextThat (step (State.reset.withFetchWord 16 0x400)) (fun t => t.labels = [{ cls := 10, fatal := none }]) = true := by decide
theorem test_fetch_events :
    decodeTableWord 8 0 = some (.rxFrame 0 []) ∧ decodeTableWord 8 3 = some .txFail ∧ decodeTableWord 8 1 = some .frmRunt := by decide
/-- The block has nothing to do after reset until the host moves (46_validation_fsm.md R228). -/
theorem test_reset_waits : refusedAs (step State.reset) .awaitsHost = true := by decide

/-! ### Witnesses: states and operands that meet the hypotheses of the obligations -/

theorem held_holds (r : Bool) (c : Params) (bs : List Byte) (h : bs.length ≤ 1504) : HoldsFrame (held r c bs) bs := by
  refine ⟨rfl, ?_, h, ?_⟩
  · simp only [held, BitVec.toNat_ofNat]
    omega
  · intro i _
    simp [held, Memory.read_cells]

theorem cells_written (bs : List Byte) : Memory.written (Memory.cells 0 bs) bs.length := by
  intro i hi
  exact ⟨bs[i], by simp [Memory.read_cells, hi]⟩

theorem cells_wf (bs : List Byte) (size : Nat) (h : bs.length ≤ size) : Memory.wf size (Memory.cells 0 bs) :=
  ⟨Memory.cells_pairwise 0 bs, fun c hc => by have := Memory.mem_cells hc; omega⟩

theorem held_legal (r : Bool) (c : Params) (bs : List Byte) (h : bs.length ≤ 1504) : Legal (held r c bs) := by
  have hl := (held_holds r c bs h).len
  exact {
    rxWf := cells_wf bs 1504 h, txWf := Memory.wf_nil _, rxLenLe := by omega, txLenLe := Nat.zero_le 1500, faultLe := Nat.zero_le 4,
    faultHalt := by simp [held, State.reset], procFrame := fun _ => by rw [hl]; exact cells_written bs,
    sendLen := by simp [held], sendFrame := by simp [held], sendCap := by simp [held], sendResponded := by simp [held] }

theorem sending_legal : Legal sending where
  rxWf := Memory.wf_nil _
  txWf := cells_wf replyV1 1500 (by decide)
  rxLenLe := by decide
  txLenLe := by decide
  faultLe := by decide
  faultHalt := by decide
  procFrame := by simp [sending]
  sendLen := fun _ => rfl
  sendFrame := fun _ => cells_written replyV1
  sendCap := fun _ => by decide
  sendResponded := fun _ => rfl

/-- V1 parses (95_test_vectors.md 2.3, 2.4). -/
theorem v1_ok : Frame.TcpOk frameV1 :=
  ⟨⟨⟨by decide, by decide, by decide, by decide, by decide, by decide⟩, by decide, by decide⟩, by decide, by decide⟩

/-- V16 parses. -/
theorem v16_ok : Frame.TcpOk frameV16 :=
  ⟨⟨⟨by decide, by decide, by decide, by decide, by decide, by decide⟩, by decide, by decide⟩, by decide, by decide⟩

/-- V14 parses. -/
theorem v14_ok : Frame.TcpOk frameV14 :=
  ⟨⟨⟨by decide, by decide, by decide, by decide, by decide, by decide⟩, by decide, by decide⟩, by decide, by decide⟩

/-- V12 carries a TCP fixed header. -/
theorem v12_held : Frame.TcpHeld frameV12 :=
  ⟨⟨by decide, by decide, by decide, by decide, by decide, by decide⟩, by decide, by decide⟩

/-- V13 carries a TCP fixed header. -/
theorem v13_held : Frame.TcpHeld frameV13 :=
  ⟨⟨by decide, by decide, by decide, by decide, by decide, by decide⟩, by decide, by decide⟩

/-- V3's IPv4 header parses. -/
theorem v3_ok : Frame.IpOk frameV3 := ⟨by decide, by decide, by decide, by decide, by decide, by decide⟩

/-- V11's IPv4 header parses. -/
theorem v11_ok : Frame.IpOk frameV11 := ⟨by decide, by decide, by decide, by decide, by decide, by decide⟩

/-- V27's IPv4 header parses. -/
theorem v27_ok : Frame.IpOk frameV27 := ⟨by decide, by decide, by decide, by decide, by decide, by decide⟩

/-- The longest frame the port carries: V1 padded to 1504 bytes (95_test_vectors.md S2). -/
def longest : List Byte := frameV1 ++ List.replicate 1460 0

theorem longest_length : longest.length = 1504 := by
  rw [longest, List.length_append, List.length_replicate]
  rfl

theorem witness_DecodeEncode : Instr.wellFormed (.rxFrame 0 []) = true ∧
    Instr.wellFormed (.rxFrame 1504 (List.replicate 1504 0xff)) = true ∧ Instr.wellFormed .reset = true := by
  simp only [Instr.wellFormed, List.length_replicate]
  decide

theorem witness_FcvRowsMatch : classRows[0]? = some .frmRunt ∧ classRows[11]? = some .tcpDone ∧ (11 : Nat) < 12 := by decide

/-- A word that carries another event and a frame beside `rst`. -/
def rstWord : HostWord := { rst := true, hev := 0, n := 1505, bytes := [] }

theorem witness_ResetInputWins :
    ({ sending with turns := [.host rstWord] } : State).turns = .host rstWord :: [] ∧ rstWord.rst = true := ⟨rfl, rfl⟩

/-- A TX_OK on the host's port. -/
def txOkWord : HostWord := { rst := false, hev := 2, n := 0, bytes := [] }

/-- The shortest frame the port cannot carry (95_test_vectors.md S3). -/
def longWord : HostWord := { rst := false, hev := 0, n := 1505, bytes := List.replicate 1505 0 }

/-- A frame with a byte less than `n`. -/
def shortWord : HostWord := { rst := false, hev := 0, n := 1, bytes := [] }

theorem witness_StepRunsDecoded :
    (({ sending with turns := [.host txOkWord, .block] } : State).turns = .host txOkWord :: [.block] ∧
      decode (.host txOkWord) = .ok .txOk) ∧
    (({ idleStale with turns := [.host longWord] } : State).turns = .host longWord :: [] ∧
      decode (.host longWord) = .error .frameTooLong ∧ decode (.host shortWord) = .error .lengthMismatch) ∧
    (blockTurn (fresh frameV1) ∧ (fresh frameV1).fsm = .proc ∧ fcv (fresh frameV1) = .ok 0 ∧ decode (.frame 0) = .ok .tcpReply) :=
  ⟨⟨rfl, by decide⟩, ⟨rfl, by decide, by decide⟩, by simp [blockTurn, fresh, held, State.reset], rfl, by decide, by decide⟩

theorem witness_BlockTurnAwaitsHost :
    blockTurn State.reset ∧ State.reset.fsm ≠ .proc ∧ blockTurn { sending with turns := [.block] } ∧ sending.fsm ≠ .proc :=
  ⟨by simp [blockTurn, State.reset], by decide, by simp [blockTurn], by decide⟩

theorem witness_ExactlyOneClassRuns : HoldsFrame (fresh []) [] ∧ HoldsFrame (fresh longest) longest :=
  ⟨held_holds _ _ _ (by decide), held_holds _ _ _ (by rw [longest_length])⟩

theorem witness_FrmRuntDiscards : HoldsFrame (fresh [0, 0, 8]) [0, 0, 8] ∧ ([0, 0, 8] : List Byte).length < 4 ∧
    HoldsFrame (fresh []) [] ∧ ([] : List Byte).length < 4 :=
  ⟨held_holds _ _ _ (by decide), by decide, held_holds _ _ _ (by decide), by decide⟩

theorem witness_IpTruncDiscards : HoldsFrame (fresh frameV5) frameV5 ∧ 4 ≤ frameV5.length ∧ frameV5.length - 4 < 20 ∧
    HoldsFrame (fresh [0, 0, 8, 0]) [0, 0, 8, 0] ∧ ([0, 0, 8, 0] : List Byte).length - 4 < 20 :=
  ⟨held_holds _ _ _ (by decide), by decide, by decide, held_holds _ _ _ (by decide), by decide⟩

theorem witness_IpBadverDiscards : HoldsFrame (fresh frameV6) frameV6 ∧ 24 ≤ frameV6.length ∧
    (Frame.byte frameV6 4).extractLsb' 4 4 ≠ 4 :=
  ⟨held_holds _ _ _ (by decide), by decide, by decide⟩

theorem witness_IpBadihlDiscards : HoldsFrame (fresh frameV7) frameV7 ∧ 24 ≤ frameV7.length ∧
    (Frame.byte frameV7 4).extractLsb' 4 4 = 4 ∧ ((Frame.byte frameV7 4).extractLsb' 0 4).toNat < 5 :=
  ⟨held_holds _ _ _ (by decide), by decide, by decide, by decide⟩

theorem witness_IpShorthdrDiscards : HoldsFrame (fresh frameV8) frameV8 ∧ 24 ≤ frameV8.length ∧ (Frame.ip frameV8).version = 4 ∧
    5 ≤ (Frame.ip frameV8).ihl.toNat ∧ frameV8.length - 4 < 4 * (Frame.ip frameV8).ihl.toNat :=
  ⟨held_holds _ _ _ (by decide), by decide, by decide, by decide, by decide⟩

theorem witness_IpBadlenDiscards : HoldsFrame (fresh frameV9) frameV9 ∧ HoldsFrame (fresh frameV10) frameV10 ∧
    (Frame.ip frameV9).hlen ≤ frameV9.length - 4 ∧ frameV9.length - 4 < (Frame.half frameV9 6).toNat ∧
    (Frame.ip frameV10).version = 4 ∧ 5 ≤ (Frame.ip frameV10).ihl.toNat ∧ (Frame.ip frameV10).hlen ≤ frameV10.length - 4 ∧
    (Frame.half frameV10 6).toNat < (Frame.ip frameV10).hlen :=
  ⟨held_holds _ _ _ (by decide), held_holds _ _ _ (by decide), by decide, by decide, by decide, by decide, by decide, by decide⟩

theorem witness_IpNontcpSkips : HoldsFrame (fresh frameV3) frameV3 ∧ Frame.IpOk frameV3 ∧ Frame.byte frameV3 13 ≠ 6 :=
  ⟨held_holds _ _ _ (by decide), v3_ok, by decide⟩

theorem witness_TcpTruncDiscards : HoldsFrame (fresh frameV11) frameV11 ∧ Frame.IpOk frameV11 ∧ Frame.byte frameV11 13 = 6 ∧
    (Frame.half frameV11 6).toNat - (Frame.ip frameV11).hlen < 20 ∧ HoldsFrame (fresh frameV27) frameV27 ∧ Frame.IpOk frameV27 ∧
    (Frame.half frameV27 6).toNat - (Frame.ip frameV27).hlen = 0 :=
  ⟨held_holds _ _ _ (by decide), v11_ok, by decide, by decide, held_holds _ _ _ (by decide), v27_ok, by decide⟩

theorem witness_TcpBadoffDiscards : HoldsFrame (fresh frameV12) frameV12 ∧ Frame.TcpHeld frameV12 ∧
    (Frame.tcp frameV12).doff.toNat < 5 :=
  ⟨held_holds _ _ _ (by decide), v12_held, by decide⟩

theorem witness_TcpShorthdrDiscards : HoldsFrame (fresh frameV13) frameV13 ∧ Frame.TcpHeld frameV13 ∧
    5 ≤ (Frame.tcp frameV13).doff.toNat ∧ (Frame.ip frameV13).payloadLen < 4 * (Frame.tcp frameV13).doff.toNat :=
  ⟨held_holds _ _ _ (by decide), v13_held, by decide, by decide⟩

theorem witness_TcpNosynSkips : HoldsFrame (fresh frameV14) frameV14 ∧ Frame.TcpOk frameV14 ∧
    (fresh frameV14).cfg.requireSyn = true ∧ (Frame.tcp frameV14).flags.getLsbD 1 = false ∧
    HoldsFrame (held false anySegment frameV14) frameV14 ∧ (held false anySegment frameV14).cfg.requireSyn = false :=
  ⟨held_holds _ _ _ (by decide), v14_ok, rfl, by decide, held_holds _ _ _ (by decide), rfl⟩

theorem witness_TcpDoneSkips : HoldsFrame (held true Params.defaults frameV1) frameV1 ∧ Frame.TcpOk frameV1 ∧
    Frame.initiates true frameV1 = true ∧ (held true Params.defaults frameV1).responded = true :=
  ⟨held_holds _ _ _ (by decide), v1_ok, by decide, rfl⟩

/-- The hypotheses of TcpReplyOffers, ReplyFieldsDerived and ReplyChecksumsVerify, with V1 and with options, at the smallest
`TX_CAP`, and with `REQUIRE_SYN = false` on a segment without SYN. -/
theorem witness_TcpReplyOffers : HoldsFrame (held false (capOf 44) frameV1) frameV1 ∧ Frame.TcpOk frameV1 ∧
    Frame.initiates (capOf 44).requireSyn frameV1 = true ∧ (held false (capOf 44) frameV1).responded = false ∧
    44 ≤ (held false (capOf 44) frameV1).cfg.txCap ∧ HoldsFrame (fresh frameV16) frameV16 ∧ Frame.TcpOk frameV16 ∧
    HoldsFrame (held false anySegment frameV14) frameV14 ∧ Frame.initiates anySegment.requireSyn frameV14 = true :=
  ⟨held_holds _ _ _ (by decide), v1_ok, by decide, rfl, by decide, held_holds _ _ _ (by decide), v16_ok,
    held_holds _ _ _ (by decide), by decide⟩

theorem witness_TcpReplyTooSmallHalts : HoldsFrame (held false (capOf 43) frameV1) frameV1 ∧ Frame.TcpOk frameV1 ∧
    Frame.initiates (capOf 43).requireSyn frameV1 = true ∧ (held false (capOf 43) frameV1).responded = false ∧
    (held false (capOf 43) frameV1).cfg.txCap < 44 :=
  ⟨held_holds _ _ _ (by decide), v1_ok, by decide, rfl, by decide⟩

theorem witness_RxFrameReceives : State.reset.fsm = .idle ∧ (1504 : BitVec 11).toNat ≤ 1504 ∧
    (List.replicate 1504 (0 : Byte)).length = (1504 : BitVec 11).toNat ∧ 1504 < (1505 : BitVec 11).toNat ∧ sending.fsm ≠ .idle := by
  rw [List.length_replicate]
  decide

theorem witness_RxFailHalts : State.reset.fsm = .idle ∧ sending.fsm ≠ .idle := by decide

theorem witness_TxOkReturns : sending.fsm = .send ∧ sending.txLen.toNat ≤ sending.cfg.txCap ∧
    sending.tx.written sending.txLen.toNat ∧ State.reset.fsm ≠ .send :=
  ⟨rfl, by decide, cells_written replyV1, by decide⟩

theorem witness_TxFailHalts : sending.fsm = .send ∧ State.reset.fsm ≠ .send ∧ Legal sending ∧ ∃ t, exec .txFail sending = .next t :=
  ⟨rfl, by decide, sending_legal, _, rfl⟩

theorem witness_DisabledStepsRefused : enabledIn .tcpReply State.reset.fsm = false ∧ enabledIn .txOk State.reset.fsm = false ∧
    enabledIn (.rxFrame 0 []) sending.fsm = false ∧ enabledIn .rxFail halted2.fsm = false := by decide

theorem witness_HaltOnlyLeftByReset : halted2.fsm = .halt ∧ ∃ t, exec .reset halted2 = .next t := ⟨rfl, _, rfl⟩

theorem witness_DropClassesFrame : isDropClass .tcpDone = true ∧
    ∃ t, exec .tcpDone (held true Params.defaults frameV1) = .next t ∧ decide (t.fsm = .idle) = true :=
  ⟨by decide, nextThat_spec (p := fun t => t.fsm = .idle) (by decide)⟩

/-- Both ends of TCP_REPLY: SEND and HALT. -/
theorem witness_TcpReplyFrame :
    (∃ t, exec .tcpReply (fresh frameV1) = .next t ∧ decide (t.fsm = .send) = true) ∧
      ∃ t, exec .tcpReply (held false (capOf 43) frameV1) = .next t ∧ decide (t.fsm = .halt) = true :=
  ⟨nextThat_spec (p := fun t => t.fsm = .send) (by decide), nextThat_spec (p := fun t => t.fsm = .halt) (by decide)⟩

theorem witness_RxFrameFrame : ∃ t, exec (.rxFrame 0 []) idleStale = .next t ∧ decide (t.fsm = .proc) = true :=
  nextThat_spec (p := fun t => t.fsm = .proc) (by decide)

theorem witness_ChannelEventsFrame :
    (∃ t, exec .rxFail State.reset = .next t ∧ decide (t.fsm = .halt) = true) ∧
      (∃ t, exec .txOk sending = .next t ∧ decide (t.fsm = .idle) = true) ∧
      ∃ t, exec .txFail sending = .next t ∧ decide (t.fsm = .halt) = true :=
  ⟨nextThat_spec (p := fun t => t.fsm = .halt) (by decide), nextThat_spec (p := fun t => t.fsm = .idle) (by decide),
    nextThat_spec (p := fun t => t.fsm = .halt) (by decide)⟩

/-- Fatal steps, from IDLE, SEND and PROC. -/
theorem witness_FatalStepsArePrecise :
    (∃ t, exec .rxFail State.reset = .next t ∧ decide (t.fsm = .halt) = true) ∧
      (∃ t, exec .txFail sending = .next t ∧ decide (t.fsm = .halt) = true) ∧
      ∃ t, exec .tcpReply (held false (capOf 43) frameV1) = .next t ∧ decide (t.fsm = .halt) = true :=
  ⟨nextThat_spec (p := fun t => t.fsm = .halt) (by decide), nextThat_spec (p := fun t => t.fsm = .halt) (by decide),
    nextThat_spec (p := fun t => t.fsm = .halt) (by decide)⟩

theorem witness_RespondedWrittenBy :
    (∃ t, exec .tcpReply (fresh frameV1) = .next t ∧ decide (t.responded ≠ (fresh frameV1).responded) = true) ∧
      ∃ t, exec .reset sending = .next t ∧ decide (t.responded ≠ sending.responded) = true :=
  ⟨nextThat_spec (p := fun t => t.responded ≠ (fresh frameV1).responded) (by decide),
    nextThat_spec (p := fun t => t.responded ≠ sending.responded) (by decide)⟩

/-- A step from a state with a configuration of its own. -/
theorem witness_ConfigurationFixed :
    ∃ t, step (held false (capOf 44) frameV1) = .next t ∧ decide (t.cfg.txCap = 44) = true :=
  nextThat_spec (p := fun t => t.cfg.txCap = 44) (by decide)

theorem witness_RxChangedOnlyByReceiveOrReset : Instr.tcpDone ≠ .reset ∧ (∀ n bytes, Instr.tcpDone ≠ .rxFrame n bytes) ∧
    ∃ t, exec .tcpDone (held true Params.defaults frameV1) = .next t ∧ decide (t.rxLen = 44) = true :=
  ⟨by decide, fun _ _ => nofun, nextThat_spec (p := fun t => t.rxLen = 44) (by decide)⟩

/-- SEND with TX_OK on the host's port, and a RESET after it. -/
def sendingOk : State := { sending with turns := [.host txOkWord, .host rstWord] }

theorem witness_TxStableInSend : sendingOk.fsm = .send ∧ (∀ w, sendingOk.turns.head? = some (.host w) → w.rst = false) ∧
    ∃ t, step sendingOk = .next t ∧ decide (t.fsm = .idle) = true :=
  ⟨rfl, by simp [sendingOk, txOkWord], nextThat_spec (p := fun t => t.fsm = .idle) (by decide)⟩

/-- Steps from legal states: into SEND, and out of it. -/
theorem witness_LegalKept : Legal (fresh frameV1) ∧ (∃ t, step (fresh frameV1) = .next t ∧ decide (t.fsm = .send) = true) ∧
    Legal sending ∧ ∃ t, exec .txOk sending = .next t ∧ decide (t.fsm = .idle) = true :=
  ⟨held_legal _ _ _ (by decide), nextThat_spec (p := fun t => t.fsm = .send) (by decide), sending_legal,
    nextThat_spec (p := fun t => t.fsm = .idle) (by decide)⟩

/-- Legal PROC states on the block's turn: the shortest frame, the longest, and one answered. -/
theorem witness_ProcStepsOut : Legal (fresh []) ∧ Legal (fresh longest) ∧ Legal (fresh frameV1) ∧ (fresh []).fsm = .proc ∧
    blockTurn (fresh []) ∧ blockTurn (fresh longest) :=
  ⟨held_legal _ _ _ (by decide), held_legal _ _ _ (by rw [longest_length]), held_legal _ _ _ (by decide), rfl,
    by simp [blockTurn, fresh, held, State.reset], by simp [blockTurn, fresh, held, State.reset]⟩

theorem witness_WholeExecRefined : HoldsFrame (fresh frameV1) frameV1 ∧ blockTurn (fresh frameV1) :=
  ⟨held_holds _ _ _ (by decide), by simp [blockTurn, fresh, held, State.reset]⟩

/-- A run of one step that builds the reply. -/
theorem witness_SingleShotRun : noReset (fresh frameV1).turns ∧
    ∃ t, core.run 1 (fresh frameV1) = .next t ∧ decide (replies t = 1 ∧ repliesLeft t = 0) = true :=
  ⟨by simp [noReset, fresh, held, State.reset],
    nextThat_spec (o := core.run 1 (fresh frameV1)) (p := fun t => replies t = 1 ∧ repliesLeft t = 0) (by decide)⟩

/-- V1 and V17 differ in their checksums only. -/
theorem witness_ClassDependsOnlyOn : HoldsFrame (fresh frameV1) frameV1 ∧ HoldsFrame (fresh frameV17) frameV17 ∧
    frameV1 ≠ frameV17 ∧ frameV1.length = frameV17.length ∧ Frame.byte frameV1 4 = Frame.byte frameV17 4 ∧
    Frame.half frameV1 6 = Frame.half frameV17 6 ∧ Frame.byte frameV1 13 = Frame.byte frameV17 13 ∧
    (Frame.tcp frameV1).doff = (Frame.tcp frameV17).doff ∧
    (Frame.tcp frameV1).flags.getLsbD 1 = (Frame.tcp frameV17).flags.getLsbD 1 :=
  ⟨held_holds _ _ _ (by decide), held_holds _ _ _ (by decide), by decide, by decide, by decide, by decide, by decide, by decide,
    by decide⟩

theorem witness_ReplyDependsOnlyOn : HoldsFrame (fresh frameV1) frameV1 ∧ HoldsFrame (fresh frameV17) frameV17 ∧
    44 ≤ (fresh frameV1).cfg.txCap ∧
    (∃ t, exec .tcpReply (fresh frameV1) = .next t ∧ decide (t.fsm = .send) = true) ∧
    (∃ t, exec .tcpReply (fresh frameV17) = .next t ∧ decide (t.fsm = .send) = true) ∧ frameV1.take 4 = frameV17.take 4 ∧
    (Frame.ip frameV1).src = (Frame.ip frameV17).src ∧ (Frame.ip frameV1).dst = (Frame.ip frameV17).dst ∧
    (Frame.tcp frameV1).sport = (Frame.tcp frameV17).sport ∧ (Frame.tcp frameV1).dport = (Frame.tcp frameV17).dport ∧
    (Frame.tcp frameV1).seq = (Frame.tcp frameV17).seq ∧ (Frame.tcp frameV1).window = (Frame.tcp frameV17).window :=
  ⟨held_holds _ _ _ (by decide), held_holds _ _ _ (by decide), by decide,
    nextThat_spec (p := fun t => t.fsm = .send) (by decide), nextThat_spec (p := fun t => t.fsm = .send) (by decide),
    by decide, by decide, by decide, by decide, by decide, by decide, by decide⟩

theorem witness_OnesAddEndAroundCarry : 0x10000 ≤ (0xFFFF : BitVec 16).toNat + (0x0001 : BitVec 16).toNat := by decide

theorem witness_OnesAddAlgebra : ([] : List Byte).length % 2 = 0 ∧ ([0x01, 0x02] : List Byte).length % 2 = 0 := by decide

/-- The shortest segment with a checksum field, and the longest with a 16-bit length. -/
theorem witness_SegmentChecksumVerifies : 0xFFFF < (List.replicate 0x10000 (0 : Byte)).length ∧
    (18 ≤ (List.replicate 18 (0 : Byte)).length ∧ (List.replicate 18 (0 : Byte)).length ≤ 0xFFFF ∧
      (List.replicate 18 (0 : Byte))[16]? = some 0 ∧ (List.replicate 18 (0 : Byte))[17]? = some 0) ∧
    (List.replicate 0xFFFF (0 : Byte)).length ≤ 0xFFFF ∧ (List.replicate 0xFFFF (0 : Byte))[16]? = some 0 ∧
      (List.replicate 0xFFFF (0 : Byte))[17]? = some 0 :=
  ⟨by rw [List.length_replicate]; decide, by decide, le_of_eq List.length_replicate, by rw [List.getElem?_replicate, if_pos (by decide)],
    by rw [List.getElem?_replicate, if_pos (by decide)]⟩

/-- V1's IPv4 header as fields (95_test_vectors.md 2.3). -/
def v1Header : IpHeader where
  version := 4
  ihl := 5
  tos := 0
  totalLength := 40
  ident := 0
  reservedFlag := 0
  dontFragment := 1
  moreFragments := 0
  fragmentOffset := 0
  ttl := 64
  protocol := 6
  hdrChecksum := 0x701C
  src := addrA
  dst := addrB

theorem witness_Ipv4ParserRecovers : ([0x00, 0x00, 0x08, 0x00] : List Byte).length = 4 ∧
    [0x00, 0x00, 0x08, 0x00] ++ Frame.ipBytes v1Header ++ frameV1.drop 24 = frameV1 ∧ HoldsFrame (fresh frameV1) frameV1 ∧
    Frame.IpOk frameV1 :=
  ⟨by decide, by decide, held_holds _ _ _ (by decide), v1_ok.held.ip⟩

/-- V1's TCP header as fields (95_test_vectors.md 2.4). -/
def v1Segment : TcpHeader where
  sport := 50000
  dport := 80
  seq := 1000
  ack := 0
  doff := 5
  reserved := 0
  ns := 0
  flags := 0x02
  window := 65535
  checksum := 0x1DA6
  urgent := 0

theorem witness_TcpParserRecovers : HoldsFrame (fresh frameV1) frameV1 ∧ Frame.TcpHeld frameV1 ∧
    (frameV1.drop (Frame.ip frameV1).payloadStart).take 20 = Frame.tcpBytes v1Segment :=
  ⟨held_holds _ _ _ (by decide), v1_ok.held, by decide⟩

/-- One frame per guard: the longest runt, V5, V10 (the total length), V3 and V11 (no TCP header), V13 (the data offset). -/
theorem witness_ViewsUndefinedOutsideGuard : (fresh [0, 0, 8]).rxLen.toNat < 4 ∧ (fresh frameV5).rxLen.toNat < 24 ∧
    HoldsFrame (fresh frameV10) frameV10 ∧ ¬ Frame.IpOk frameV10 ∧ HoldsFrame (fresh frameV3) frameV3 ∧ ¬ Frame.TcpHeld frameV3 ∧
    HoldsFrame (fresh frameV11) frameV11 ∧ ¬ Frame.TcpHeld frameV11 ∧ HoldsFrame (fresh frameV13) frameV13 ∧
    ¬ Frame.TcpOk frameV13 :=
  ⟨by decide, by decide, held_holds _ _ _ (by decide), fun h => absurd h.totLow (by decide), held_holds _ _ _ (by decide),
    fun h => absurd h.proto (by decide), held_holds _ _ _ (by decide), fun h => absurd h.fixed (by decide),
    held_holds _ _ _ (by decide), fun h => absurd h.hdrFits (by decide)⟩

/-- A stale byte that stands past the frame, and a reply that stands in TX after SEND. -/
theorem witness_StaleBytesNotRead : ({ idleStale with rxLen := 3 } : State).rxLen.toNat ≤ 3 ∧ idleStale.rx.read 3 = some 0x00 ∧
    halted2.fsm ≠ .send ∧ halted2.tx.read 37 = some 0x12 := by decide

theorem witness_BuildFailuresHandled : (capOf 43).txCap < 44 ∧ ¬ (capOf 44).txCap < 44 ∧
    State.reset.cfg.csumFailPolicy = .fatal ∧
    ({ State.reset with cfg := { Params.defaults with csumFailPolicy := .discard } } : State).cfg.csumFailPolicy = .discard := by decide

end Sys2Proof.Tests
end

/-! ### TCP_REPLY (46_validation_fsm.md R249) -/

section
namespace Sys2Proof.Machine

/-- TCP_REPLY is the reply path behind EXEC's guard (R222, R249). -/
theorem exec_tcpReply (s : State) : exec .tcpReply s = onClass .tcpReply s (replyPath s) := rfl

/-- The initiation test is that FCV bit 10 is 0 (43_responder.md R161). -/
theorem initiates_iff {q : Bool} {bs : List Byte} :
    Frame.initiates q bs = true ↔ ¬ (q = true ∧ (Frame.tcp bs).syn = false) := by
  cases q <;> simp [Frame.initiates]

/-- Past the initiation test only the single-shot gate is left in the vector (R95, bit 11; 43_responder.md R160). -/
theorem fcvOf_initiates {q : Bool} {bs : List Byte} (ht : Frame.TcpOk bs) (hq : Frame.initiates q bs = true) (r : Bool) :
    fcvOf q r bs = if r then 0x800 else 0x000 := by
  rw [fcvOf_tcpOk ht, if_neg (initiates_iff.mp hq)]

/-- The end of the reply path in the terms of claims: the two records, then the built frame is offered (R170, R188). -/
theorem finishReply_built (s : State) (r₁ r₂ : DiagRec) (frame : List Byte) :
    finishReply ((s.emit r₁).emit r₂) (.built frame) = afterReply s frame [r₁, r₂] := by
  apply State.eq_of_fields <;> simp [finishReply, afterReply, diagAfter_emit]

/-- Settles O20: the vector of such a frame is 0, so EXEC's guard lets the reply path run, and what REPLY_BUILD builds there
is the frame of the layout table (R89). -/
theorem tcpReplyOffers : Obligations.TcpReplyOffers := by
  intro s bs h ht hq hr hc
  have hv : fcvOf s.cfg.requireSyn s.responded bs = 0x000 := by
    rw [fcvOf_initiates ht hq, hr, if_neg Bool.false_ne_true]
  obtain ⟨hmatch, hguard⟩ := class_holds h hv (m := 0xFFF) (r := 0x000) (by decide) (i := .tcpReply) (by decide) (replyPath s)
  refine ⟨hmatch, ?_⟩
  rw [exec_tcpReply, hguard, replyPath_holds h ht, buildReply_frame s.cfg bs hc, finishReply_built]

end Sys2Proof.Machine
end

/-! ### The reply read back from the transmit port (43_responder.md R162 to R168) -/

section
namespace Sys2Proof.Machine

/-- A 16-bit field is read back where its two bytes stand (00_scope.md R11). -/
theorem half_of_bytes16 {bs : List Byte} {i : Nat} {v : BitVec 16} (h : (bs.drop i).take 2 = bytes16 v) :
    Frame.half bs i = v := by
  have hb : ∀ k, k < 2 → Frame.byte bs (i + k) = (bytes16 v).getD k 0 := by
    intro k hk
    simp [Frame.byte, ← h, hk]
  rw [Frame.half, hb 1 (by omega), ← Nat.add_zero i, hb 0 (by omega)]
  exact be16_bytes v

/-- A 32-bit field is read back where its four bytes stand (00_scope.md R11). -/
theorem word_of_bytes32 {bs : List Byte} {i : Nat} {v : BitVec 32} (h : (bs.drop i).take 4 = bytes32 v) :
    Frame.word bs i = v := by
  have hhi : (bs.drop i).take 2 = bytes16 (v.extractLsb' 16 16) := by
    calc (bs.drop i).take 2 = ((bs.drop i).take 4).take 2 := by simp [List.take_take]
      _ = bytes16 (v.extractLsb' 16 16) := by rw [h]; rfl
  have hlo : (bs.drop (i + 2)).take 2 = bytes16 (v.extractLsb' 0 16) := by
    calc (bs.drop (i + 2)).take 2 = ((bs.drop i).take 4).drop 2 := by simp [List.drop_take]
      _ = bytes16 (v.extractLsb' 0 16) := by rw [h]; rfl
  rw [Frame.word, half_of_bytes16 hhi, half_of_bytes16 hlo, halves]

/-- A frame's first four bytes, byte by byte (40_frame_codec.md R113). -/
theorem take_four_eq_bytes {bs : List Byte} (hl : 4 ≤ bs.length) :
    bs.take 4 = [Frame.byte bs 0, Frame.byte bs 1, Frame.byte bs 2, Frame.byte bs 3] := by
  match bs, hl with
  | b0 :: b1 :: b2 :: b3 :: rest, _ => rfl

/-- The transmit port offers exactly the frame a reply step has stored (44_reply_builder.md R188, 20_memory.md R51). -/
theorem txFrame_afterReply {s : State} {frame : List Byte} (recs : List DiagRec) (hl : frame.length = 44)
    (hc : 44 ≤ s.cfg.txCap) : txFrame (afterReply s frame recs) = .ok frame := by
  have hread : txBytes (afterReply s frame recs) 0 44 = .ok frame := by
    refine txBytes_ok hl fun k hk => txByte_eq_ok.mpr ⟨rfl, ?_, ?_⟩
    · exact (by omega : 0 + k < s.cfg.txCap)
    · simp [afterReply, Memory.read_writeBytes, hk]
  exact hread

/-- The acknowledgment wraps (43_responder.md R163). -/
theorem seq_add_one_eq (v : BitVec 32) : v + 1 = BitVec.ofNat 32 ((v.toNat + 1) % 2 ^ 32) :=
  BitVec.eq_of_toNat_eq (by simp [BitVec.toNat_add])

/-- The IPv4 fields of the reply: addresses inverted, TTL 64, protocol TCP (43_responder.md R167, R168). -/
theorem replyBytes_ipFields (c : Params) (bs : List Byte) (ipCk tcpCk : BitVec 16) :
    Frame.byte (replyBytes c bs ipCk tcpCk) 12 = 64 ∧ Frame.byte (replyBytes c bs ipCk tcpCk) 13 = 6 ∧
      Frame.word (replyBytes c bs ipCk tcpCk) 16 = (Frame.ip bs).dst ∧
      Frame.word (replyBytes c bs ipCk tcpCk) 20 = (Frame.ip bs).src := by
  refine ⟨?_, ?_, word_of_bytes32 ?_, word_of_bytes32 ?_⟩ <;> simp [replyBytes, Frame.byte, bytes16, bytes32]

/-- The TCP fields of the reply: ports inverted, sequence 0, `seq + 1` acknowledged, SYN and ACK, the window copied
(43_responder.md R162 to R166). -/
theorem replyBytes_tcpFields (c : Params) (bs : List Byte) (ipCk tcpCk : BitVec 16) :
    Frame.half (replyBytes c bs ipCk tcpCk) 24 = (Frame.tcp bs).dport ∧
      Frame.half (replyBytes c bs ipCk tcpCk) 26 = (Frame.tcp bs).sport ∧
      Frame.word (replyBytes c bs ipCk tcpCk) 28 = 0 ∧
      Frame.word (replyBytes c bs ipCk tcpCk) 32 = (Frame.tcp bs).seq + 1 ∧
      Frame.byte (replyBytes c bs ipCk tcpCk) 37 = 0x12 ∧
      Frame.half (replyBytes c bs ipCk tcpCk) 38 = (Frame.tcp bs).window := by
  refine ⟨half_of_bytes16 ?_, half_of_bytes16 ?_, word_of_bytes32 ?_, word_of_bytes32 ?_, ?_, half_of_bytes16 ?_⟩ <;>
    simp [replyBytes, Frame.byte, bytes16, bytes32]

/-- The reply echoes the first four bytes of the request (40_frame_codec.md R113). -/
theorem replyBytes_take_four (c : Params) {bs : List Byte} (hl : 4 ≤ bs.length) (ipCk tcpCk : BitVec 16) :
    (replyBytes c bs ipCk tcpCk).take 4 = bs.take 4 := by
  rw [take_four_eq_bytes hl]
  simp [replyBytes]

/-- Settles O22: the step is O20's, the transmit port offers the frame that step stored, and the fields stand in that frame
whatever its two checksums are. -/
theorem replyFieldsDerived : Obligations.ReplyFieldsDerived := by
  intro s bs h ht hq hr hc
  obtain ⟨-, hstep⟩ := tcpReplyOffers s bs h ht hq hr hc
  have hlen : 4 ≤ bs.length := le_trans (by omega) ht.held.ip.len
  obtain ⟨httl, hproto, hsrc, hdst⟩ := replyBytes_ipFields s.cfg bs (replyIpCk s.cfg bs) (replyTcpCk s.cfg bs)
  obtain ⟨hsport, hdport, hseq, hack, hflags, hwindow⟩ :=
    replyBytes_tcpFields s.cfg bs (replyIpCk s.cfg bs) (replyTcpCk s.cfg bs)
  rw [seq_add_one_eq] at hack
  exact ⟨_, replyFrame s.cfg bs, hstep, txFrame_afterReply _ (replyFrame_length _ _) hc, replyFrame_length _ _,
    replyBytes_take_four _ hlen _ _, hsport, hdport, hack, hseq, hwindow, hflags, hsrc, hdst, httl, hproto⟩

end Sys2Proof.Machine
end

/-! ### The checksum engine's algebra (45_checksum.md R200 to R203) -/

section
namespace Sys2Proof.Machine

/-- Adding the carry back takes 0xFFFF off a sum that carries (R200). -/
theorem onesAdd_toNat_ite (a b : BitVec 16) :
    (onesAdd a b).toNat = if a.toNat + b.toNat < 65536 then a.toNat + b.toNat else a.toNat + b.toNat - 65535 := by
  rw [onesAdd_toNat]
  split <;> omega

/-- `+1c` is commutative, as the natural sum under it is (R202). -/
theorem onesAdd_comm (a b : BitVec 16) : onesAdd a b = onesAdd b a := by
  simp only [onesAdd, Nat.add_comm]

/-- `+1c` is associative: either grouping takes 0xFFFF off the natural sum of the three words, once for each carry, and the two
groupings carry equally often (R202). -/
theorem onesAdd_assoc (a b c : BitVec 16) : onesAdd (onesAdd a b) c = onesAdd a (onesAdd b c) := by
  apply BitVec.eq_of_toNat_eq
  simp only [onesAdd_toNat_ite]
  split_ifs <;> omega

@[simp] theorem zero_onesAdd (a : BitVec 16) : onesAdd 0#16 a = a :=
  BitVec.eq_of_toNat_eq (by simp [onesAdd_toNat_ite, a.isLt])

@[simp] theorem onesAdd_zero (a : BitVec 16) : onesAdd a 0#16 = a := by
  rw [onesAdd_comm, zero_onesAdd]

@[simp] theorem onesSum_nil : onesSum [] = 0#16 := rfl

@[simp] theorem onesSumFrom_singleton (acc : BitVec 16) (a : Byte) : onesSumFrom acc [a] = onesAdd acc (be16 a 0) := rfl

/-- The accumulator is one more summand, since `+1c` is associative (R201, R202). -/
theorem onesSumFrom_eq_onesAdd (acc : BitVec 16) (bs : List Byte) : onesSumFrom acc bs = onesAdd acc (onesSum bs) := by
  induction bs using List.twoStepInduction generalizing acc with
  | nil => simp
  | singleton a => simp [onesSum]
  | cons_cons a b bs ih _ =>
    calc onesSumFrom acc (a :: b :: bs)
        = onesAdd (onesAdd acc (be16 a b)) (onesSum bs) := ih _
      _ = onesAdd acc (onesAdd (be16 a b) (onesSum bs)) := onesAdd_assoc ..
      _ = onesAdd acc (onesSumFrom (be16 a b) bs) := by rw [ih (be16 a b)]
      _ = onesAdd acc (onesSum (a :: b :: bs)) := by simp [onesSum]

/-- An even first part ends at a word's boundary, so the sum goes on from it word by word (R201). -/
theorem onesSumFrom_append (acc : BitVec 16) (d e : List Byte) (h : d.length % 2 = 0) :
    onesSumFrom acc (d ++ e) = onesSumFrom (onesSumFrom acc d) e := by
  induction d using List.twoStepInduction generalizing acc with
  | nil => rfl
  | singleton a => simp at h
  | cons_cons a b d ih _ =>
    rw [List.length_cons, List.length_cons] at h
    exact ih _ (by omega)

theorem onesSum_append (d e : List Byte) (h : d.length % 2 = 0) : onesSum (d ++ e) = onesAdd (onesSum d) (onesSum e) := by
  rw [onesSum, onesSumFrom_append 0 d e h, onesSumFrom_eq_onesAdd, ← onesSum]

/-- Settles O49: the concatenation law is that the sum goes on from the first part's, and associativity takes that accumulator
out of it. -/
theorem onesAddAlgebra : Obligations.OnesAddAlgebra :=
  ⟨onesAdd_comm, onesAdd_assoc, onesSum_append⟩

/-- Settles O47: the rule's mask and shift are the remainder and the quotient by 2^16 of `onesAdd_toNat`; a sum
that carries is at most 0x1FFFE, so its remainder is at most 0xFFFE. -/
theorem onesAddEndAroundCarry : Obligations.OnesAddEndAroundCarry := by
  have hmask (n : Nat) : n &&& 0xFFFF = n % 65536 := Nat.and_two_pow_sub_one_eq_mod n 16
  have hshift (n : Nat) : n >>> 16 = n / 65536 := Nat.shiftRight_eq_div_pow n 16
  refine ⟨fun a b => ⟨?_, fun h => ?_⟩, by decide, by decide⟩
  · rw [hmask, hshift, onesAdd_toNat]
  · rw [hmask]
    omega

/-- Settles O48: `csum16` is defined as the complement (R203), and its examples are closed instances. -/
theorem checksumExamples : Obligations.ChecksumExamples :=
  ⟨fun _ => rfl, by decide, by decide, by decide, by decide⟩

end Sys2Proof.Machine
end

/-! ### The frame classes that are discarded or skipped (46_validation_fsm.md R237 to R248) -/

section
namespace Sys2Proof.Machine

/-! The frame condition vector under each class's condition (30_encoding.md R95): the lower bits are 0, its own bit is 1. -/

theorem fcvOf_runt {bs : List Byte} (hl : bs.length < 4) (q r : Bool) : fcvOf q r bs = 0x001 :=
  if_pos hl

theorem fcvOf_ipTrunc {bs : List Byte} (hl : 4 ≤ bs.length) (ht : bs.length - 4 < 20) (q r : Bool) :
    fcvOf q r bs = 0x002 := by
  rw [fcvOf, if_neg (by omega), if_pos ht]

/-- With the fixed IPv4 header there the vector starts at bit 2 (41_ipv4_parser.md R128). -/
theorem fcvOf_ipBadver {bs : List Byte} (hl : 24 ≤ bs.length) (hv : (Frame.ip bs).version ≠ 4) (q r : Bool) :
    fcvOf q r bs = 0x004 := by
  rw [fcvOf, if_neg (by omega), if_neg (by omega), if_pos hv]

theorem fcvOf_ipBadihl {bs : List Byte} (hl : 24 ≤ bs.length) (hv : (Frame.ip bs).version = 4)
    (hi : (Frame.ip bs).ihl.toNat < 5) (q r : Bool) : fcvOf q r bs = 0x008 := by
  rw [fcvOf, if_neg (by omega), if_neg (by omega), if_neg (not_not.mpr hv), if_pos hi]

theorem fcvOf_ipShorthdr {bs : List Byte} (hl : 24 ≤ bs.length) (hv : (Frame.ip bs).version = 4)
    (hi : 5 ≤ (Frame.ip bs).ihl.toNat) (hh : bs.length - 4 < (Frame.ip bs).hlen) (q r : Bool) :
    fcvOf q r bs = 0x010 := by
  rw [fcvOf, if_neg (by omega), if_neg (by omega), if_neg (not_not.mpr hv), if_neg (by omega), if_pos hh]

theorem fcvOf_ipBadlen {bs : List Byte} (hl : 24 ≤ bs.length) (hv : (Frame.ip bs).version = 4)
    (hi : 5 ≤ (Frame.ip bs).ihl.toNat) (hh : (Frame.ip bs).hlen ≤ bs.length - 4)
    (ht : (Frame.ip bs).totalLength.toNat < (Frame.ip bs).hlen ∨ bs.length - 4 < (Frame.ip bs).totalLength.toNat)
    (q r : Bool) : fcvOf q r bs = 0x020 := by
  rw [fcvOf, if_neg (by omega), if_neg (by omega), if_neg (not_not.mpr hv), if_neg (by omega), if_neg (by omega),
    if_pos ht]

theorem fcvOf_ipNontcp {bs : List Byte} (hi : Frame.IpOk bs) (hp : (Frame.ip bs).protocol ≠ 6) (q r : Bool) :
    fcvOf q r bs = 0x040 := by
  rw [fcvOf_ipOk hi, if_pos hp]

theorem fcvOf_tcpTrunc {bs : List Byte} (hi : Frame.IpOk bs) (hp : (Frame.ip bs).protocol = 6)
    (hl : (Frame.ip bs).payloadLen < 20) (q r : Bool) : fcvOf q r bs = 0x080 := by
  rw [fcvOf_ipOk hi, if_neg (not_not.mpr hp), if_pos hl]

/-- With the fixed TCP header there the vector starts at bit 8 (42_tcp_parser.md R146). -/
theorem fcvOf_tcpHeld {bs : List Byte} (ht : Frame.TcpHeld bs) (q r : Bool) : fcvOf q r bs = fcvTcpOf q r bs := by
  rw [fcvOf_ipOk ht.ip, if_neg (not_not.mpr ht.proto), if_neg (Nat.not_lt.mpr ht.fixed)]

theorem fcvOf_tcpBadoff {bs : List Byte} (ht : Frame.TcpHeld bs) (hd : (Frame.tcp bs).doff.toNat < 5) (q r : Bool) :
    fcvOf q r bs = 0x100 := by
  rw [fcvOf_tcpHeld ht, fcvTcpOf, if_pos hd]

theorem fcvOf_tcpShorthdr {bs : List Byte} (ht : Frame.TcpHeld bs) (hd : 5 ≤ (Frame.tcp bs).doff.toNat)
    (hl : (Frame.ip bs).payloadLen < (Frame.tcp bs).hlen) (q r : Bool) : fcvOf q r bs = 0x200 := by
  rw [fcvOf_tcpHeld ht, fcvTcpOf, if_neg (by omega), if_pos hl]

theorem fcvOf_tcpNosyn {bs : List Byte} (ht : Frame.TcpOk bs) (hs : (Frame.tcp bs).syn = false) (r : Bool) :
    fcvOf true r bs = 0x400 := by
  rw [fcvOf_tcpOk ht, if_pos ⟨rfl, hs⟩]

/-- A choice between two vectors neither of which is of class `i` is not of class `i`. -/
theorem decodeFcv_ite_ne {c : Prop} [Decidable c] {w v : BitVec 12} {i : Instr} (hw : decodeFcv w ≠ i)
    (hv : decodeFcv v ≠ i) : decodeFcv (if c then w else v) ≠ i := by
  split
  · exact hw
  · exact hv

/-- Bit 10 is the initiation test's and is 0 when `REQUIRE_SYN` is false (43_responder.md R161). -/
theorem fcvTcpOf_of_not_requireSyn (r : Bool) (bs : List Byte) :
    fcvTcpOf false r bs =
      if (Frame.tcp bs).doff.toNat < 5 then 0x100
      else if (Frame.ip bs).payloadLen < (Frame.tcp bs).hlen then 0x200
      else if r then 0x800 else 0x000 := by
  simp [fcvTcpOf]

/-- With `REQUIRE_SYN` false every word the vector can be is another class's than TCP_NOSYN's (R247). -/
theorem decodeFcv_ne_tcpNosyn (r : Bool) (bs : List Byte) : decodeFcv (fcvOf false r bs) ≠ .tcpNosyn := by
  unfold fcvOf
  rw [fcvTcpOf_of_not_requireSyn]
  iterate 11 refine decodeFcv_ite_ne (by decide) ?_
  decide

/-- The discard of the classes before the IPv4 view is parsed sends the one record DIAG_MALFORMED (R226). -/
theorem discardRaw_malformed (s : State) {cls : BitVec 4} (hc : malformedClass cls = true) :
    discardRaw s cls = .next (afterDiscard s cls [.malformed cls]) := by
  rw [discardRaw, discard_eq, if_pos hc]

/-- The discard of the classes before the TCP view is parsed sends DIAG_IPV4 and DIAG_MALFORMED (R226, R251). -/
theorem discardIp_malformed {s : State} {bs : List Byte} (h : HoldsFrame s bs) (hi : Frame.IpOk bs) {cls : BitVec 4}
    (hc : malformedClass cls = true) : discardIp s cls = .next (afterDiscard s cls [ipv4RecordOf bs, .malformed cls]) := by
  rw [discardIp_holds h hi, if_pos hc]

/-- The row's match and the class's next state, from the vector's value and what the class does behind EXEC's guard. -/
theorem class_next {s t : State} {bs : List Byte} (h : HoldsFrame s bs) {w : BitVec 12}
    (hw : fcvOf s.cfg.requireSyn s.responded bs = w) {m b : BitVec 12} (hm : w &&& m = b) {i : Instr}
    (hi : decodeFcv w = i) {k : Outcome} (hk : k = .next t) :
    (∃ v, fcv s = .ok v ∧ v &&& m = b) ∧ onClass i s k = .next t :=
  hk ▸ class_holds h hw hm hi k

/-- Settles O8: a runt's vector is 0x001. -/
theorem frmRuntDiscards : Obligations.FrmRuntDiscards := fun s _ h hl =>
  class_next h (fcvOf_runt hl _ _) (by decide) (by decide) (discardRaw_malformed s (by decide))

/-- Settles O9: bit 0 is 0 and bit 1 is 1. -/
theorem ipTruncDiscards : Obligations.IpTruncDiscards := fun s _ h hl ht =>
  class_next h (fcvOf_ipTrunc hl ht _ _) (by decide) (by decide) (discardRaw_malformed s (by decide))

/-- Settles O10: the version is the first field tested, so the IHL does not matter. -/
theorem ipBadverDiscards : Obligations.IpBadverDiscards := fun s _ h hl hv =>
  class_next h (fcvOf_ipBadver hl hv _ _) (by decide) (by decide) (discardRaw_malformed s (by decide))

/-- Settles O11: past the version the IHL is tested. -/
theorem ipBadihlDiscards : Obligations.IpBadihlDiscards := fun s _ h hl hv hi =>
  class_next h (fcvOf_ipBadihl hl hv hi _ _) (by decide) (by decide) (discardRaw_malformed s (by decide))

/-- Settles O12: `4 * ip.ihl` is `ip.hlen`, which the slice is tested against. -/
theorem ipShorthdrDiscards : Obligations.IpShorthdrDiscards := fun s _ h hl hv hi hh =>
  class_next h (fcvOf_ipShorthdr hl hv hi hh _ _) (by decide) (by decide) (discardRaw_malformed s (by decide))

/-- Settles O13: either half of the length test sets bit 5. -/
theorem ipBadlenDiscards : Obligations.IpBadlenDiscards := fun s _ h hl hv hi hh ht =>
  class_next h (fcvOf_ipBadlen hl hv hi hh ht _ _) (by decide) (by decide) (discardRaw_malformed s (by decide))

/-- Settles O14: class 6 sends no DIAG_MALFORMED (R226), so DIAG_IPV4 stays the one record. -/
theorem ipNontcpSkips : Obligations.IpNontcpSkips := fun _ _ h hi hp =>
  class_next h (fcvOf_ipNontcp hi hp _ _) (by decide) (by decide) (discardIp_holds h hi 6)

/-- Settles O15: the TCP slice is the IPv4 payload, whose length is bit 7's test. -/
theorem tcpTruncDiscards : Obligations.TcpTruncDiscards := fun _ _ h hi hp hl =>
  class_next h (fcvOf_tcpTrunc hi hp hl _ _) (by decide) (by decide) (discardIp_malformed h hi (by decide))

/-- Settles O16: past bit 7 the data offset is the first field tested. -/
theorem tcpBadoffDiscards : Obligations.TcpBadoffDiscards := fun _ _ h ht hd =>
  class_next h (fcvOf_tcpBadoff ht hd _ _) (by decide) (by decide) (discardIp_malformed h ht.ip (by decide))

/-- Settles O17: `4 * tcp.doff` is `tcp.hlen`, which the TCP slice is tested against. -/
theorem tcpShorthdrDiscards : Obligations.TcpShorthdrDiscards := fun _ _ h ht hd hl =>
  class_next h (fcvOf_tcpShorthdr ht hd hl _ _) (by decide) (by decide) (discardIp_malformed h ht.ip (by decide))

/-- Settles O18: bit 10 needs both `REQUIRE_SYN` and a segment without SYN; class 10 sends no DIAG_MALFORMED (R226). -/
theorem tcpNosynSkips : Obligations.TcpNosynSkips := by
  intro s bs h
  refine ⟨fun ht hq hs => ?_, fun hq => ?_⟩
  · have hw : fcvOf s.cfg.requireSyn s.responded bs = 0x400 := by rw [hq, fcvOf_tcpNosyn ht hs]
    exact class_next h hw (by decide) (by decide) (discardTcp_holds h ht 10)
  · refine ⟨_, fcv_holds h, ?_⟩
    rw [hq]
    exact decodeFcv_ne_tcpNosyn _ _

/-- Settles O19: past the initiation test only the single-shot gate is left, and it is closed; class 11 sends no
DIAG_MALFORMED (R226). -/
theorem tcpDoneSkips : Obligations.TcpDoneSkips := by
  intro s bs h ht hq hr
  have hw : fcvOf s.cfg.requireSyn s.responded bs = 0x800 := by rw [fcvOf_initiates ht hq, hr, if_pos rfl]
  exact class_next h hw (by decide) (by decide) (discardTcp_holds h ht 11)

end Sys2Proof.Machine
end

/-! ### The host events (46_validation_fsm.md R232 to R236) -/

section
namespace Sys2Proof.Machine

theorem onFsm_enabled {x : Fsm} {s : State} (h : s.fsm = x) (k : Outcome) : onFsm x s k = k :=
  if_pos h

theorem onFsm_disabled {x : Fsm} {s : State} (h : s.fsm ≠ x) (k : Outcome) : onFsm x s k = .refused .notEnabled :=
  if_neg h

theorem onClass_disabled {s : State} (h : s.fsm ≠ .proc) (i : Instr) (k : Outcome) :
    onClass i s k = .refused .notEnabled :=
  if_neg h

/-- RX_FRAME on a frame the port can carry (R232). -/
theorem exec_rxFrame_idle {s : State} {n : BitVec 11} {bytes : List Byte} (h : s.fsm = .idle) (hn : n.toNat ≤ 1504)
    (hl : bytes.length = n.toNat) : exec (.rxFrame n bytes) s = .next (s.receive n bytes) := by
  rw [exec, execRxFrame, onFsm_enabled h, if_neg (Nat.not_lt.mpr hn), if_pos hl]

/-- TX_OK on a frame the transmit port offers (R234). -/
theorem exec_txOk_send {s : State} {frame : List Byte} (h : s.fsm = .send) (hf : txFrame s = .ok frame) :
    exec .txOk s = .next { s with diag := diagAfter s [.reply s.txLen frame], fsm := .idle } := by
  have hstate : (s.emit (.reply s.txLen frame)).setFsm .idle =
      { s with diag := diagAfter s [.reply s.txLen frame], fsm := .idle } := by
    apply State.eq_of_fields <;> simp
  rw [exec, execTxOk, onFsm_enabled h, hf, ← hstate]

/-- After RX_FRAME the block holds the frame (10_state.md R22, 20_memory.md R62). -/
theorem receive_holdsFrame (s : State) {n : BitVec 11} {bytes : List Byte} (hn : n.toNat ≤ 1504)
    (hl : bytes.length = n.toNat) : HoldsFrame (s.receive n bytes) bytes where
  inProc := rfl
  len := hl.symm
  short := hl.trans_le hn
  bytes i hi := by simp [Memory.read_writeBytes, hi]

/-- Settles O23: the next state is `receive`'s, a read after its write is `Memory.read_writeBytes`, and the empty frame is a
runt. -/
theorem rxFrameReceives : Obligations.RxFrameReceives := by
  refine ⟨fun s n bytes h hn hl => ⟨_, exec_rxFrame_idle h hn hl, fun a => ?_⟩, fun s n bytes hd t ht => ?_,
    fun s h => ?_⟩
  · simp [Memory.read_writeBytes, hl]
  · obtain ⟨hidle, hn, -, -⟩ := rxFrame_cases ht
    rcases hd with hd | hd
    · exact hd hidle
    · omega
  · have hn : (0 : BitVec 11).toNat ≤ 1504 := by decide
    refine ⟨_, exec_rxFrame_idle h hn rfl, _, fcv_holds (receive_holdsFrame s hn rfl), ?_⟩
    rw [fcvOf_runt (by simp)]
    decide

/-- Settles O25: in SEND the offered bytes have been written and fit, so the port reads them. -/
theorem txOkReturns : Obligations.TxOkReturns := by
  refine ⟨fun s h hc hw => ?_, fun s h t ht => h (txOk_cases ht).1⟩
  obtain ⟨f, hlen, hread, hbytes⟩ := txBytes_of_written h hc hw
  have hframe : txFrame s = .ok f := by simp [txFrame, txValid, h, hread]
  refine ⟨f, hlen, fun i hi => ?_, exec_txOk_send h hframe⟩
  rw [hbytes i (hlen ▸ hi), List.getElem?_eq_getElem]

/-- Settles O28: a frame class stands behind `onClass`'s test of PROC, a host event behind `onFsm`'s test of its state, and
RESET is enabled everywhere. -/
theorem disabledStepsRefused : Obligations.DisabledStepsRefused := by
  intro i s h
  cases i with
  | frmRunt | ipTrunc | ipBadver | ipBadihl | ipShorthdr | ipBadlen | ipNontcp | tcpTrunc | tcpBadoff | tcpShorthdr
  | tcpNosyn | tcpDone | tcpReply => exact onClass_disabled (of_decide_eq_false h) _ _
  | rxFrame | rxFail | txOk | txFail => exact onFsm_disabled (of_decide_eq_false h) _
  | reset => cases h

/-- Settles O24: `raise Fatal(CHAN_RX)` behind the test of IDLE. -/
theorem rxFailHalts : Obligations.RxFailHalts := fun _ =>
  ⟨fun h => onFsm_enabled h _, fun h _ ht => h (rxFail_cases ht).1⟩

/-- Settles O26: `raise Fatal(CHAN_TX)` behind the test of SEND, where a legal state has responded. -/
theorem txFailHalts : Obligations.TxFailHalts := by
  refine fun s => ⟨fun h => onFsm_enabled h _, fun h t ht => h (txFail_cases ht).1, fun hs t ht => ?_⟩
  obtain ⟨hsend, rfl⟩ := txFail_cases ht
  exact ⟨hs.sendResponded hsend, rfl⟩

end Sys2Proof.Machine
end

/-! ### Fatal errors and HALT (60_exceptions.md R271 to R276) -/

section
namespace Sys2Proof.Machine

/-- HALT enables RESET only (46_validation_fsm.md R220). -/
theorem enabledIn_halt_of_ne_reset {i : Instr} (hi : i ≠ .reset) : enabledIn i .halt = false := by
  cases i with
  | reset => exact absurd rfl hi
  | _ => rfl

/-- Settles O29: HALT enables no other instruction, and a disabled one is refused. -/
theorem haltOnlyLeftByReset : Obligations.HaltOnlyLeftByReset := by
  refine fun s h => ⟨fun i t ht => ?_, s.doReset, rfl, rfl, rfl, rfl⟩
  by_contra hi
  have hrefused : exec i s = .refused .notEnabled := disabledStepsRefused i s (h ▸ enabledIn_halt_of_ne_reset hi)
  cases hrefused.symm.trans ht

/-- The three ways into HALT: TCP_REPLY's BUF_SMALL, RX_FAIL's CHAN_RX and TX_FAIL's CHAN_TX (R271). -/
theorem halt_cases {i : Instr} {s t : State} (h : exec i s = .next t) (hhalt : t.fsm = .halt) :
    (∃ recs, t = afterFatalReply s codeBufSmall recs) ∨ t = s.raiseFatal codeChanRx ∨ t = s.raiseFatal codeChanTx := by
  rcases exec_cases h with ⟨_, _, -, -, -, rfl⟩ | ⟨-, -, -, -, recs, ht⟩ | ⟨-, -, -, -, _, _, -, rfl⟩ | ⟨_, _, -, -, -, -, rfl⟩ |
    ⟨-, -, ht⟩ | ⟨-, -, _, -, rfl⟩ | ⟨-, -, ht⟩ | ⟨-, rfl⟩
  · cases hhalt -- a discard ends in IDLE
  · exact .inl ⟨recs, ht⟩
  · cases hhalt -- a built reply ends in SEND
  · cases hhalt -- RX_FRAME ends in PROC
  · exact .inr (.inl ht)
  · cases hhalt -- TX_OK ends in IDLE
  · exact .inr (.inr ht)
  · cases hhalt -- RESET ends in IDLE

/-- Settles O34: each way into HALT is an update of `fault`, `fsm` and the outputs with a code of its own. -/
theorem fatalStepsArePrecise : Obligations.FatalStepsArePrecise := by
  intro i s t h hhalt
  obtain ⟨recs, rfl⟩ | rfl | rfl := halt_cases h hhalt
  · exact ⟨rfl, show 1 ≤ codeBufSmall.toNat ∧ codeBufSmall.toNat ≤ 4 by decide⟩
  · exact ⟨rfl, show 1 ≤ codeChanRx.toNat ∧ codeChanRx.toNat ≤ 4 by decide⟩
  · exact ⟨rfl, show 1 ≤ codeChanTx.toNat ∧ codeChanTx.toNat ≤ 4 by decide⟩

/-- Settles O56: each output is a test or a copy of one field, and HALT is neither SEND nor IDLE. -/
theorem statusOutputs : Obligations.StatusOutputs := by
  refine fun s => ⟨decide_eq_true_iff, decide_eq_true_iff, decide_eq_true_iff, rfl, rfl, fun h => ?_⟩
  simp [halted, txValid, rxReady, h]

end Sys2Proof.Machine
end

/-! ### Decoder and encoder (30_encoding.md R96, R99) -/

section
namespace Sys2Proof

/-- Settles O2: every word but RX_FRAME's is a constant of the decoder's table, and RX_FRAME's two checks are its
well-formedness. -/
theorem decodeEncode : Obligations.DecodeEncode := by
  intro i h
  cases i with
  | rxFrame n bytes =>
    obtain ⟨hn, hl⟩ : n.toNat ≤ 1504 ∧ bytes.length = n.toNat := by simpa [Instr.wellFormed] using h
    have hdecode : decodeRxFrame n bytes = .ok (.rxFrame n bytes) := by
      rw [decodeRxFrame, if_neg (Nat.not_lt.mpr hn), if_pos hl]
    exact hdecode
  | _ => rfl

end Sys2Proof
end

/-! ### Legal states (10_state.md R20 to R26, 60_exceptions.md R271) -/

section
namespace Sys2Proof.Machine

/-- The schedule is no part of what makes a state legal. -/
theorem Legal.withTurns {s : State} (h : Legal s) (ts : List Turn) : Legal { s with turns := ts } :=
  ⟨h.rxWf, h.txWf, h.rxLenLe, h.txLenLe, h.faultLe, h.faultHalt, h.procFrame, h.sendLen, h.sendFrame, h.sendCap,
    h.sendResponded⟩

/-- Outside HALT a legal state shows no fault code (10_state.md R24). -/
theorem Legal.fault_eq_zero {s : State} (h : Legal s) {x : Fsm} (hx : s.fsm = x) (hne : x ≠ .halt) : s.fault = 0 :=
  h.faultHalt.mpr (hx ▸ hne)

/-- Going to IDLE or HALT keeps a legal state legal when the fault code fits: no frame and no reply is held there. -/
theorem Legal.rest {s : State} (h : Legal s) {x : Fsm} {c : BitVec 3} (hproc : x ≠ .proc) (hsend : x ≠ .send)
    (hle : c.toNat ≤ 4) (hc : c = 0 ↔ x ≠ .halt) (d : List DiagRec) (l : List ExecLabel) :
    Legal { s with fsm := x, fault := c, diag := d, labels := l } where
  rxWf := h.rxWf
  txWf := h.txWf
  rxLenLe := h.rxLenLe
  txLenLe := h.txLenLe
  faultLe := hle
  faultHalt := hc
  procFrame hx := absurd hx hproc
  sendLen hx := absurd hx hsend
  sendFrame hx := absurd hx hsend
  sendCap hx := absurd hx hsend
  sendResponded hx := absurd hx hsend

theorem Legal.afterDiscard {s : State} (h : Legal s) (hproc : s.fsm = .proc) (cls : BitVec 4) (recs : List DiagRec) :
    Legal (afterDiscard s cls recs) :=
  h.rest (x := .idle) (c := s.fault) (by decide) (by decide) h.faultLe
    (by simp [h.fault_eq_zero hproc (by decide)]) _ _

/-- A fatal error leaves the buffers and the lengths as they were (60_exceptions.md R274). -/
theorem Legal.raiseFatal {s : State} (h : Legal s) {c : BitVec 3} (hle : c.toNat ≤ 4) (hc : c ≠ 0) :
    Legal (s.raiseFatal c) :=
  h.rest (x := .halt) (by decide) (by decide) hle (by simpa using hc) s.diag s.labels

theorem Legal.afterFatalReply {s : State} (h : Legal s) (recs : List DiagRec) : Legal (afterFatalReply s 4 recs) :=
  h.rest (x := .halt) (by decide) (by decide) (by decide) (by decide) _ _

/-- A reply of 44 bytes is written inside `TX` (20_memory.md R50, 10_state.md R26). -/
theorem Legal.afterReply {s : State} (h : Legal s) (hproc : s.fsm = .proc) (hcap : 44 ≤ s.cfg.txCap) {frame : List Byte}
    (hl : frame.length = 44) (recs : List DiagRec) : Legal (afterReply s frame recs) where
  rxWf := h.rxWf
  txWf := Memory.writeBytes_wf h.txWf 0 frame (by omega)
  rxLenLe := h.rxLenLe
  txLenLe := by simp [Machine.afterReply]
  faultLe := h.faultLe
  faultHalt := by simp [Machine.afterReply, h.fault_eq_zero hproc (by decide)]
  procFrame hx := by cases hx
  sendLen _ := rfl
  sendFrame _ := hl ▸ Memory.writeBytes_written s.tx frame
  sendCap _ := hcap
  sendResponded _ := rfl

/-- A frame of at most 1504 bytes is written inside `RX`, whole (20_memory.md R50, R62). -/
theorem Legal.receive {s : State} (h : Legal s) (hidle : s.fsm = .idle) {n : BitVec 11} {bytes : List Byte}
    (hn : n.toNat ≤ 1504) (hl : bytes.length = n.toNat) : Legal (s.receive n bytes) where
  rxWf := Memory.writeBytes_wf h.rxWf 0 bytes (by omega)
  txWf := h.txWf
  rxLenLe := hn
  txLenLe := h.txLenLe
  faultLe := h.faultLe
  faultHalt := by simp [h.fault_eq_zero hidle (by decide)]
  procFrame _ := hl ▸ Memory.writeBytes_written s.rx bytes
  sendLen hx := by cases hx
  sendFrame hx := by cases hx
  sendCap hx := by cases hx
  sendResponded hx := by cases hx

/-- The free lengths after RESET are within their legal values (10_state.md R35). -/
theorem doReset_lengths (s : State) : s.doReset.rxLen.toNat ≤ 1504 ∧ s.doReset.txLen.toNat ≤ 1500 := by
  have hrx := (Config.freeRxLen s.fresh).isLt
  have htx := (Config.freeTxLen s.fresh).isLt
  simp only [State.doReset_rxLen, State.doReset_txLen, BitVec.toNat_ofNat]
  omega

/-- IDLE with empty buffers is legal when the lengths are in range (10_state.md R35, 70_reset_and_hazards.md R301). -/
theorem legal_of_empty {s : State} (hidle : s.fsm = .idle) (hfault : s.fault = 0) (hrx : s.rx = []) (htx : s.tx = [])
    (hrxLen : s.rxLen.toNat ≤ 1504) (htxLen : s.txLen.toNat ≤ 1500) : Legal s where
  rxWf := hrx ▸ Memory.wf_nil _
  txWf := htx ▸ Memory.wf_nil _
  rxLenLe := hrxLen
  txLenLe := htxLen
  faultLe := by simp [hfault]
  faultHalt := by simp [hfault, hidle]
  procFrame := by simp [hidle]
  sendLen := by simp [hidle]
  sendFrame := by simp [hidle]
  sendCap := by simp [hidle]
  sendResponded := by simp [hidle]

/-- RESET makes every state legal (70_reset_and_hazards.md R300). -/
theorem legal_doReset (s : State) : Legal s.doReset :=
  legal_of_empty rfl rfl rfl rfl (doReset_lengths s).1 (doReset_lengths s).2

/-- TX_OK's effect is on `fsm` and the diagnostic port only (46_validation_fsm.md R234). -/
theorem emit_setFsm_eq (s : State) (r : DiagRec) (x : Fsm) :
    (s.emit r).setFsm x = { s with fsm := x, diag := diagAfter s [r] } := by
  apply State.eq_of_fields <;> simp

/-- Every instruction keeps a legal state legal, one case per row of the transition table (46_validation_fsm.md R230). -/
theorem Legal.exec {i : Instr} {s t : State} (h : Legal s) (hexec : exec i s = .next t) : Legal t := by
  rcases exec_cases hexec with ⟨cls, recs, -, -, hproc, rfl⟩ | ⟨-, -, -, -, recs, rfl⟩ |
    ⟨-, hproc, -, hcap, frame, recs, hl, rfl⟩ | ⟨n, bytes, -, hidle, hn, hl, rfl⟩ | ⟨-, -, rfl⟩ |
    ⟨-, hsend, frame, -, rfl⟩ | ⟨-, -, rfl⟩ | ⟨-, rfl⟩
  · exact h.afterDiscard hproc cls recs
  · exact h.afterFatalReply recs
  · exact h.afterReply hproc hcap hl recs
  · exact h.receive hidle hn hl
  · exact h.raiseFatal (by decide) (by decide)
  · rw [emit_setFsm_eq]
    exact h.rest (x := .idle) (c := s.fault) (by decide) (by decide) h.faultLe
      (by simp [h.fault_eq_zero hsend (by decide)]) _ s.labels
  · exact h.raiseFatal (by decide) (by decide)
  · exact legal_doReset s

/-- Settles O40: a step runs one instruction on the state with its turn taken off, and both keep a legal state legal. -/
theorem legalKept : Obligations.LegalKept := by
  intro s t h hstep
  obtain ⟨i, hexec, -⟩ := step_cases hstep
  exact (h.withTurns s.turns.tail).exec hexec

/-- Settles O39: the buffers are empty and every register is 0. -/
theorem legalAtReset : Obligations.LegalAtReset :=
  legal_of_empty rfl rfl rfl rfl (by decide) (by decide)

/-- Settles O27: RESET writes the registers, and the free lengths are within their legal values. -/
theorem resetEntersIdle : Obligations.ResetEntersIdle := fun s =>
  ⟨s.doReset, rfl, rfl, rfl, rfl, fun _ => rfl, fun _ => rfl, (doReset_lengths s).1, (doReset_lengths s).2, rfl, rfl, rfl, rfl⟩

end Sys2Proof.Machine
end

/-! ### What an instruction leaves unchanged -/

section
namespace Sys2Proof.Machine

/-- What no instruction writes: the configuration and the schedule (00_scope.md R8, 10_state.md R36). -/
theorem exec_keeps_cfg_turns {i : Instr} {s t : State} (h : exec i s = .next t) : t.cfg = s.cfg ∧ t.turns = s.turns := by
  rcases exec_cases h with ⟨_, _, -, -, -, rfl⟩ | ⟨-, -, -, -, _, rfl⟩ | ⟨-, -, -, -, _, _, -, rfl⟩ |
    ⟨_, _, -, -, -, -, rfl⟩ | ⟨-, -, rfl⟩ | ⟨-, -, _, -, rfl⟩ | ⟨-, -, rfl⟩ | ⟨-, rfl⟩ <;>
    simp [afterDiscard, afterFatalReply, afterReply]

/-- Settles O30: a discard writes `fsm` and the outputs. -/
theorem dropClassesFrame : Obligations.DropClassesFrame := by
  intro i s t hi h
  obtain ⟨-, -, cls, recs, -, rfl⟩ := drop_cases hi h
  exact ⟨rfl, rfl, rfl, rfl, rfl, rfl, rfl, rfl, fun _ => rfl, fun _ => rfl⟩

/-- A store of `bs` at the buffer's start changes nothing past its end (20_memory.md R51). -/
theorem Memory.read_writeBytes_past (m : Memory) {bs : List Byte} {a : Nat} (h : bs.length ≤ a) :
    (m.writeBytes 0 bs).read a = m.read a := by
  rw [Memory.read_writeBytes, if_neg (by omega)]

/-- Settles O31: the fatal end writes no buffer, the other one writes the 44 bytes of the reply at `TX[0]`. -/
theorem tcpReplyFrame : Obligations.TcpReplyFrame := by
  intro s t h
  obtain ⟨-, -, -, ⟨-, recs, rfl⟩ | ⟨-, frame, recs, hl, rfl⟩⟩ := reply_cases h
  · exact ⟨rfl, rfl, rfl, rfl, fun _ => rfl, fun _ _ => rfl, .inr ⟨rfl, rfl, rfl, fun _ => rfl⟩⟩
  · exact ⟨rfl, rfl, rfl, rfl, fun _ => rfl, fun a ha => Memory.read_writeBytes_past s.tx (hl.trans_le ha),
      .inl ⟨rfl, rfl⟩⟩

/-- Settles O32: RX_FRAME's one store is of `n` bytes at `RX[0]`. -/
theorem rxFrameFrame : Obligations.RxFrameFrame := by
  intro n bytes s t h
  obtain ⟨-, -, hl, rfl⟩ := rxFrame_cases h
  exact ⟨rfl, rfl, rfl, rfl, rfl, rfl, rfl, rfl, fun a ha => Memory.read_writeBytes_past s.rx (hl.trans_le ha),
    fun _ => rfl⟩

/-- Settles O33: two of the three raise a fatal error, and TX_OK sends its record and goes to IDLE. -/
theorem channelEventsFrame : Obligations.ChannelEventsFrame := by
  rintro i s t (rfl | rfl | rfl) h
  · obtain ⟨-, rfl⟩ := rxFail_cases h
    simp
  · obtain ⟨-, frame, -, rfl⟩ := txOk_cases h
    simp
  · obtain ⟨-, rfl⟩ := txFail_cases h
    simp

/-- Settles O35: of the rows of the transition table only the built reply and RESET write `responded`, and a reply is built
only from 0 (43_responder.md R160). -/
theorem respondedWrittenBy : Obligations.RespondedWrittenBy := by
  intro i s t h hne
  rcases exec_cases h with ⟨_, _, -, -, -, rfl⟩ | ⟨-, -, -, -, _, rfl⟩ | ⟨hi, -, hr, -, _, _, -, rfl⟩ |
    ⟨_, _, -, -, -, -, rfl⟩ | ⟨-, -, rfl⟩ | ⟨-, -, _, -, rfl⟩ | ⟨-, -, rfl⟩ | ⟨hi, rfl⟩
  · exact absurd rfl hne
  · exact absurd rfl hne
  · exact .inl ⟨hi, hr, rfl⟩
  · exact absurd rfl hne
  · exact absurd rfl hne
  · exact absurd (by simp) hne
  · exact absurd rfl hne
  · exact .inr ⟨hi, rfl⟩

/-- Settles O36: neither taking a turn nor any instruction writes the configuration. -/
theorem configurationFixed : Obligations.ConfigurationFixed := by
  intro s t h
  obtain ⟨i, hexec, -⟩ := step_cases h
  exact (exec_keeps_cfg_turns hexec).1

/-- Settles O37: of the rows of the transition table only RX_FRAME and RESET write `RX` or `rx_len`. -/
theorem rxChangedOnlyByReceiveOrReset : Obligations.RxChangedOnlyByReceiveOrReset := by
  intro i s t h hrx hreset
  suffices t.rxLen = s.rxLen ∧ t.rx = s.rx from ⟨this.1, fun a => by rw [this.2]⟩
  rcases exec_cases h with ⟨_, _, -, -, -, rfl⟩ | ⟨-, -, -, -, _, rfl⟩ | ⟨-, -, -, -, _, _, -, rfl⟩ |
    ⟨n, bytes, hi, -, -, -, rfl⟩ | ⟨-, -, rfl⟩ | ⟨-, -, _, -, rfl⟩ | ⟨-, -, rfl⟩ | ⟨hi, rfl⟩
  · exact ⟨rfl, rfl⟩
  · exact ⟨rfl, rfl⟩
  · exact ⟨rfl, rfl⟩
  · exact absurd hi (hrx n bytes)
  · exact ⟨rfl, rfl⟩
  · simp
  · exact ⟨rfl, rfl⟩
  · exact absurd hi hreset

/-- Of the instructions that SEND enables only RESET writes `TX` or `tx_len` (46_validation_fsm.md R220). -/
theorem exec_send_keeps_tx {i : Instr} {s t : State} (h : exec i s = .next t) (hsend : s.fsm = .send) (hi : i ≠ .reset) :
    t.txLen = s.txLen ∧ t.tx = s.tx := by
  rcases exec_cases h with ⟨_, _, -, -, hproc, -⟩ | ⟨-, hproc, -⟩ | ⟨-, hproc, -⟩ |
    ⟨_, _, -, hidle, -⟩ | ⟨-, hidle, -⟩ | ⟨-, -, _, -, rfl⟩ | ⟨-, -, rfl⟩ | ⟨hreset, -⟩
  · cases hsend.symm.trans hproc
  · cases hsend.symm.trans hproc
  · cases hsend.symm.trans hproc
  · cases hsend.symm.trans hidle
  · cases hsend.symm.trans hidle
  · simp
  · exact ⟨rfl, rfl⟩
  · exact absurd hreset hi

/-- What a step runs when the next turn asserts no RESET is not RESET (46_validation_fsm.md R221). -/
theorem step_cases_noReset {s t : State} (h : step s = .next t)
    (hr : ∀ w, s.turns.head? = some (.host w) → w.rst = false) :
    ∃ i, i ≠ .reset ∧ exec i { s with turns := s.turns.tail } = .next t := by
  obtain ⟨i, hexec, ⟨hclass, -, -⟩ | ⟨w, hw, hdecode⟩⟩ := step_cases h
  · refine ⟨i, fun hi => ?_, hexec⟩
    subst hi
    cases hclass
  · refine ⟨i, fun hi => ?_, hexec⟩
    have hrst : w.rst = true := (decodeHost_cases hdecode).2.mp hi
    cases (hr w hw).symm.trans hrst

/-- Settles O38: unless the next turn is a RESET the step runs an instruction that keeps `TX` in SEND. -/
theorem txStableInSend : Obligations.TxStableInSend := by
  intro s t hsend hr h
  obtain ⟨i, hi, hexec⟩ := step_cases_noReset h hr
  obtain ⟨htxLen, htx⟩ := exec_send_keeps_tx hexec hsend hi
  exact ⟨htxLen, fun a => by rw [htx]⟩

end Sys2Proof.Machine
end

/-! ### Single shot (43_responder.md R160, R172, 46_validation_fsm.md R254) -/

section
namespace Sys2Proof.Machine

/-- How many replies have been built and how many are still to come: what every step but RESET keeps. -/
def shots (s : State) : Nat := replies s + repliesLeft s

/-- The count looks at the labels and at `responded` only. -/
theorem shots_congr {s t : State} (hlabels : t.labels = s.labels) (hresponded : t.responded = s.responded) :
    shots t = shots s := by
  simp only [shots, replies, repliesLeft, hlabels, hresponded]

/-- A label that is not a built reply's does not count (46_validation_fsm.md R225). -/
theorem shots_of_other_label {s t : State} {l : ExecLabel} (hl : l.cls ≠ 12 ∨ l.fatal ≠ none)
    (hlabels : t.labels = s.labels ++ [l]) (hresponded : t.responded = s.responded) : shots t = shots s := by
  have hcount : (decide (l.cls = 12) && decide (l.fatal = none)) = false := by
    rcases hl with hl | hl
    · rw [decide_eq_false hl, Bool.false_and]
    · rw [decide_eq_false hl, Bool.and_false]
  simp only [shots, replies, repliesLeft, hlabels, hresponded, List.countP_append, List.countP_singleton, hcount]
  simp

/-- Building a reply moves one from those to come to those built. -/
theorem shots_afterReply {s : State} (hr : s.responded = false) (frame : List Byte) (recs : List DiagRec) :
    shots (afterReply s frame recs) = shots s := by
  simp [shots, replies, repliesLeft, afterReply, hr]

theorem exec_keeps_shots {i : Instr} {s t : State} (h : exec i s = .next t) (hi : i ≠ .reset) : shots t = shots s := by
  rcases exec_cases h with ⟨cls, _, -, hcls, -, rfl⟩ | ⟨-, -, -, -, _, rfl⟩ | ⟨-, -, hr, -, frame, recs, -, rfl⟩ |
    ⟨_, _, -, -, -, -, rfl⟩ | ⟨-, -, rfl⟩ | ⟨-, -, _, -, rfl⟩ | ⟨-, -, rfl⟩ | ⟨hreset, -⟩
  · exact shots_of_other_label (.inl hcls) rfl rfl
  · exact shots_of_other_label (.inr (Option.some_ne_none 4)) rfl rfl
  · exact shots_afterReply hr frame recs
  · exact shots_congr rfl rfl
  · exact shots_congr rfl rfl
  · exact shots_congr (by simp) (by simp)
  · exact shots_congr rfl rfl
  · exact absurd hreset hi

/-- One step on a schedule without RESET keeps the count, and the rest of the schedule is without RESET. -/
theorem step_keeps_shots {s t : State} (hr : noReset s.turns) (h : step s = .next t) :
    shots t = shots s ∧ noReset t.turns := by
  obtain ⟨i, hi, hexec⟩ := step_cases_noReset h fun w hw => hr w (List.mem_of_mem_head? hw)
  have hturns : t.turns = s.turns.tail := (exec_keeps_cfg_turns hexec).2
  exact ⟨(exec_keeps_shots hexec hi).trans (shots_congr rfl rfl), fun w hw => hr w (List.mem_of_mem_tail (hturns ▸ hw))⟩

/-- A run of `k + 1` steps is one step and a run of `k`. -/
theorem run_succ_next {k : Nat} {s t : State} (h : core.run (k + 1) s = .next t) :
    ∃ s', step s = .next s' ∧ core.run k s' = .next t := by
  cases hstep : core.step s with
  | next s' => exact ⟨s', hstep, by simpa only [Host.Core.run, hstep] using h⟩
  | fault f => simp only [Host.Core.run, hstep, reduceCtorEq] at h
  | refused r => simp only [Host.Core.run, hstep, reduceCtorEq] at h

/-- Settles O43: by induction on the number of steps, each of which keeps the count. -/
theorem singleShotRun : Obligations.SingleShotRun := by
  intro k
  induction k with
  | zero =>
    intro s t _ h
    cases h
    rfl
  | succ k ih =>
    intro s t hr h
    obtain ⟨s', hstep, hrun⟩ := run_succ_next h
    obtain ⟨hshots, hr'⟩ := step_keeps_shots hr hstep
    exact (ih s' t hr' hrun).trans hshots

end Sys2Proof.Machine
end

/-! ### The priority decode (30_encoding.md R96) -/

section
namespace Sys2Proof
open Machine (classRows)

/-- The lowest 1 of the vector names the row (R96). -/
theorem classRows_lowest {v : BitVec 12} {k : Nat} (hk : k < 12) (hbit : v.getLsbD k = true)
    (hlow : ∀ j < k, v.getLsbD j = false) : classRows[k]? = some (decodeFcv v) := by
  interval_cases k <;> simp (disch := decide) only [decodeFcv, hbit, hlow, Bool.false_eq_true, ↓reduceIte] <;> rfl

/-- A vector without a 1 names the last row (R96). -/
theorem classRows_zero : classRows[12]? = some (decodeFcv 0) := by decide

/-- A vector is 0 or has a lowest 1. -/
theorem eq_zero_or_lowest (v : BitVec 12) :
    v = 0 ∨ ∃ k < 12, v.getLsbD k = true ∧ ∀ j < k, v.getLsbD j = false := by
  by_cases h : ∃ k, v.getLsbD k = true
  · refine .inr ⟨Nat.find h, BitVec.lt_of_getLsbD (Nat.find_spec h), Nat.find_spec h, fun j hj => ?_⟩
    exact Bool.eq_false_iff.mpr (Nat.find_min h hj)
  · push Not at h
    exact .inl (BitVec.eq_of_getLsbD_eq fun i _ => by simp [h i])

/-- No class has two rows, so the row tells its number (R96). -/
theorem classRows_inj {j k : Nat} (hj : j < 13) (h : classRows[j]? = classRows[k]?) : j = k :=
  (List.getElem?_inj hj (by decide)).mp h

/-- A row below TCP_REPLY's is decoded exactly when its bit is the lowest 1 (R96). -/
theorem decodeFcv_eq_row_iff {v : BitVec 12} {k : Nat} (hk : k < 12) {i : Instr} (hi : classRows[k]? = some i) :
    decodeFcv v = i ↔ v.getLsbD k = true ∧ ∀ j < k, v.getLsbD j = false := by
  refine ⟨fun h => ?_, fun ⟨hbit, hlow⟩ => Option.some_inj.mp ((classRows_lowest hk hbit hlow).symm.trans hi)⟩
  rw [← h] at hi
  obtain rfl | ⟨j, hj, hbit, hlow⟩ := eq_zero_or_lowest v
  · have := classRows_inj (by decide) (classRows_zero.trans hi.symm)
    omega
  · obtain rfl : j = k := classRows_inj (by omega) ((classRows_lowest hj hbit hlow).trans hi.symm)
    exact ⟨hbit, hlow⟩

/-- Only the zero vector is TCP_REPLY's (R96). -/
theorem decodeFcv_eq_tcpReply_iff {v : BitVec 12} : decodeFcv v = .tcpReply ↔ v = 0 := by
  refine ⟨fun h => ?_, fun h => h ▸ by decide⟩
  obtain hv | ⟨k, hk, hbit, hlow⟩ := eq_zero_or_lowest v
  · exact hv
  · have hrow : classRows[12]? = classRows[k]? := by rw [classRows_lowest hk hbit hlow, h]; rfl
    have := classRows_inj (by decide) hrow
    omega

/-- A row's mask and match say that its bit is the lowest 1 (R96). -/
theorem and_mask_eq_match_iff (v : BitVec 12) {k : Nat} (hk : k < 12) :
    v &&& BitVec.ofNat 12 (2 ^ (k + 1) - 1) = BitVec.ofNat 12 (2 ^ k) ↔
      v.getLsbD k = true ∧ ∀ j < k, v.getLsbD j = false := by
  have hmask {j : Nat} (hj : j < 12) :
      (v &&& BitVec.ofNat 12 (2 ^ (k + 1) - 1)).getLsbD j = (v.getLsbD j && decide (j < k + 1)) := by
    rw [BitVec.getLsbD_and, BitVec.getLsbD_ofNat, Nat.testBit_two_pow_sub_one, decide_eq_true hj, Bool.true_and]
  have hmatch {j : Nat} (hj : j < 12) : (BitVec.ofNat 12 (2 ^ k)).getLsbD j = decide (k = j) := by
    rw [BitVec.getLsbD_ofNat, Nat.testBit_two_pow, decide_eq_true hj, Bool.true_and]
  constructor
  · intro h
    have hbits {j : Nat} (hj : j < 12) : (v.getLsbD j && decide (j < k + 1)) = decide (k = j) := by
      rw [← hmask hj, ← hmatch hj, h]
    refine ⟨by simpa using hbits hk, fun j hj => ?_⟩
    have hj' := hbits (hj.trans hk)
    rwa [decide_eq_true (by omega), decide_eq_false hj.ne', Bool.and_true] at hj'
  · rintro ⟨hbit, hlow⟩
    refine BitVec.eq_of_getLsbD_eq fun j hj => ?_
    rw [hmask hj, hmatch hj]
    rcases lt_trichotomy j k with hjk | rfl | hjk
    · simp [hlow j hjk, hjk.ne']
    · simp [hbit]
    · simp [hjk.ne, hjk]

/-- Settles O3: both a row's mask and match and the priority decode ask for the lowest 1 of the vector. -/
theorem fcvRowsMatch : Obligations.FcvRowsMatch := by
  intro v
  refine ⟨fun k hk i hi => (decodeFcv_eq_row_iff hk hi).trans (and_mask_eq_match_iff v hk).symm, ?_, ?_⟩
  · have hall : v &&& 0xFFF = v := BitVec.and_allOnes
    rw [hall, decodeFcv_eq_tcpReply_iff]
  · obtain rfl | ⟨k, hk, hbit, hlow⟩ := eq_zero_or_lowest v
    · exact List.mem_of_getElem? classRows_zero
    · exact List.mem_of_getElem? (classRows_lowest hk hbit hlow)

end Sys2Proof
end

/-! ### EXEC on a held frame (46_validation_fsm.md R222 to R224) -/

section
namespace Sys2Proof.Machine

/-- The capacity failure in the terms of claims: the two records, then the halt (44_reply_builder.md R187). -/
theorem finishReply_bufSmall (s : State) (r₁ r₂ : DiagRec) :
    finishReply ((s.emit r₁).emit r₂) .bufSmall = afterFatalReply s 4 [r₁, r₂] := by
  apply State.eq_of_fields <;> simp [finishReply, afterFatalReply, diagAfter_emit, codeBufSmall]

/-- The capacity check comes first (44_reply_builder.md R187). -/
theorem buildReply_bufSmall {c : Params} (h : c.txCap < 44) (pre : List Byte) (r : ReplyDesc) :
    buildReply c pre r = .bufSmall :=
  if_pos h

/-- Settles O21: the reply path runs as in O20, and REPLY_BUILD stops at its capacity check. -/
theorem tcpReplyTooSmallHalts : Obligations.TcpReplyTooSmallHalts := by
  intro s bs h ht hq hr hc
  have hv : fcvOf s.cfg.requireSyn s.responded bs = 0x000 := by
    rw [fcvOf_initiates ht hq, hr, if_neg Bool.false_ne_true]
  have hguard : onClass .tcpReply s (replyPath s) = replyPath s := onClass_holds _ h (by rw [hv]; decide)
  rw [exec_tcpReply, hguard, replyPath_holds h ht, buildReply_bufSmall hc, finishReply_bufSmall]
  rfl

/-- The class that the vector `w` names has the next state that was shown for it. -/
theorem exec_decodeFcv {s t : State} {bs : List Byte} {w : BitVec 12} {i : Instr}
    (hw : fcvOf s.cfg.requireSyn s.responded bs = w) (hi : decodeFcv w = i) (ht : exec i s = .next t) :
    exec (decodeFcv (fcvOf s.cfg.requireSyn s.responded bs)) s = .next t := by
  rw [hw, hi, ht]

/-- One line of EXEC's pseudocode: an outcome is a choice's when it is each branch's under the branch's condition. -/
theorem eq_next_ite {c : Prop} [Decidable c] {o : Outcome} {t e : State} (ht : c → o = .next t) (he : ¬ c → o = .next e) :
    o = .next (if c then t else e) :=
  iteInduction (motive := fun x => o = .next x) ht he

/-- The rule of the class a held frame decodes to computes EXEC's pseudocode (46_validation_fsm.md R224): along its checks, the
class statements R237 to R249. -/
theorem exec_wholeExec {s : State} {bs : List Byte} (h : HoldsFrame s bs) :
    exec (decodeFcv (fcvOf s.cfg.requireSyn s.responded bs)) s = .next (wholeExec s bs) := by
  unfold wholeExec
  refine eq_next_ite (fun hl => ?_) fun hl => ?_
  · exact exec_decodeFcv (fcvOf_runt hl _ _) (by decide) (frmRuntDiscards s bs h hl).2
  refine eq_next_ite (fun ht => ?_) fun ht => ?_
  · exact exec_decodeFcv (fcvOf_ipTrunc (by omega) ht _ _) (by decide) (ipTruncDiscards s bs h (by omega) ht).2
  have hlen : 24 ≤ bs.length := by omega
  refine eq_next_ite (fun hv => ?_) fun hv => ?_
  · exact exec_decodeFcv (fcvOf_ipBadver hlen hv _ _) (by decide) (ipBadverDiscards s bs h hlen hv).2
  rw [not_not] at hv
  refine eq_next_ite (fun hi => ?_) fun hi => ?_
  · exact exec_decodeFcv (fcvOf_ipBadihl hlen hv hi _ _) (by decide) (ipBadihlDiscards s bs h hlen hv hi).2
  rw [not_lt] at hi
  refine eq_next_ite (fun hh => ?_) fun hh => ?_
  · exact exec_decodeFcv (fcvOf_ipShorthdr hlen hv hi hh _ _) (by decide) (ipShorthdrDiscards s bs h hlen hv hi hh).2
  rw [not_lt] at hh
  refine eq_next_ite (fun hb => ?_) fun hb => ?_
  · exact exec_decodeFcv (fcvOf_ipBadlen hlen hv hi hh hb _ _) (by decide) (ipBadlenDiscards s bs h hlen hv hi hh hb).2
  have hok : Frame.IpOk bs := ⟨hlen, hv, hi, hh, by omega, by omega⟩
  refine eq_next_ite (fun hp => ?_) fun hp => ?_
  · exact exec_decodeFcv (fcvOf_ipNontcp hok hp _ _) (by decide) (ipNontcpSkips s bs h hok hp).2
  rw [not_not] at hp
  refine eq_next_ite (fun hT => ?_) fun hT => ?_
  · exact exec_decodeFcv (fcvOf_tcpTrunc hok hp hT _ _) (by decide) (tcpTruncDiscards s bs h hok hp hT).2
  have hheld : Frame.TcpHeld bs := ⟨hok, hp, by omega⟩
  refine eq_next_ite (fun hd => ?_) fun hd => ?_
  · exact exec_decodeFcv (fcvOf_tcpBadoff hheld hd _ _) (by decide) (tcpBadoffDiscards s bs h hheld hd).2
  rw [not_lt] at hd
  refine eq_next_ite (fun hs => ?_) fun hs => ?_
  · exact exec_decodeFcv (fcvOf_tcpShorthdr hheld hd hs _ _) (by decide) (tcpShorthdrDiscards s bs h hheld hd hs).2
  have htcp : Frame.TcpOk bs := ⟨hheld, hd, by omega⟩
  refine eq_next_ite (fun hq => ?_) fun hq => ?_
  · obtain ⟨hq, hsyn⟩ := hq
    have hw : fcvOf s.cfg.requireSyn s.responded bs = 0x400 := by rw [hq, fcvOf_tcpNosyn htcp hsyn]
    exact exec_decodeFcv hw (by decide) ((tcpNosynSkips s bs h).1 htcp hq hsyn).2
  have hinit := initiates_iff.mpr hq
  have hw := fcvOf_initiates htcp hinit s.responded
  refine eq_next_ite (fun hr => ?_) fun hr => ?_
  · rw [if_pos hr] at hw
    exact exec_decodeFcv hw (by decide) (tcpDoneSkips s bs h htcp hinit hr).2
  rw [if_neg hr] at hw
  rw [Bool.not_eq_true] at hr
  refine eq_next_ite (fun hc => ?_) fun hc => ?_
  · exact exec_decodeFcv hw (by decide) (tcpReplyTooSmallHalts s bs h htcp hinit hr hc)
  · exact exec_decodeFcv hw (by decide) (tcpReplyOffers s bs h htcp hinit hr (by omega)).2

/-- The frame classes are the twelve that are discarded or skipped, and TCP_REPLY (R96, R97). -/
theorem isDropClass_of_ne {i : Instr} (hi : isFrameClass i = true) (hr : i ≠ .tcpReply) : isDropClass i = true := by
  simp [isDropClass, hi, hr]

/-- A frame class has a next state only on a frame that decodes to it (R222). -/
theorem frameClass_next {i : Instr} {s t : State} (hi : isFrameClass i = true) (h : exec i s = .next t) :
    ∃ v, fcv s = .ok v ∧ decodeFcv v = i := by
  by_cases hr : i = .tcpReply
  · subst hr
    exact (reply_cases h).2.1
  · exact (drop_cases (isDropClass_of_ne hi hr) h).2.1

/-- Settles O7: the class of the vector runs EXEC, and a class that runs is the class of the vector. -/
theorem exactlyOneClassRuns : Obligations.ExactlyOneClassRuns := by
  intro s bs h
  refine ⟨_, fcv_holds h, fun i hi => ⟨fun ⟨t, ht⟩ => ?_, fun hv => ⟨_, hv ▸ exec_wholeExec h⟩⟩⟩
  obtain ⟨v, hv, hdecode⟩ := frameClass_next hi ht
  cases (fcv_holds h).symm.trans hv
  exact hdecode.symm

/-- The schedule is no part of what makes a frame held. -/
theorem HoldsFrame.popTurn {s : State} {bs : List Byte} (h : HoldsFrame s bs) : HoldsFrame (popTurn s) bs :=
  ⟨h.inProc, h.len, h.short, h.bytes⟩

/-- On its turn the block fetches, whether the turn stands on the schedule or the schedule is empty (log entry 1). -/
theorem fetch_blockTurn {s : State} (h : blockTurn s) : fetch s = fetchBlock (popTurn s) := by
  unfold fetch
  split
  next hts => rw [popTurn, hts, List.tail_nil, turns_nil hts]
  next ts hts => rw [popTurn, hts, List.tail_cons]
  next w ts hts => exact absurd (by rw [hts, List.head?_cons]) (h w)

/-- EXEC on the block's turn (R222). -/
theorem step_blockTurn {s : State} {v : BitVec 12} (hb : blockTurn s) (hp : s.fsm = .proc) (hv : fcv s = .ok v) :
    step s = exec (decodeFcv v) (popTurn s) := by
  have hfetch : fetchBlock (popTurn s) = .run (decodeFcv v) (popTurn s) := by
    have hv' : fcv (popTurn s) = .ok v := hv
    rw [fetchBlock, if_pos (show (popTurn s).fsm = .proc from hp), hv']
    rfl
  rw [step, fetch_blockTurn hb, hfetch]

/-- Settles O42: the step runs the class of the frame's vector, which computes the pseudocode. -/
theorem wholeExecRefined : Obligations.WholeExecRefined := fun _ _ h hb =>
  (step_blockTurn hb h.inProc (fcv_holds h)).trans (exec_wholeExec h.popTurn)

/-- A frame class ends in IDLE, SEND or HALT (R223). -/
theorem frameClass_fsm {i : Instr} {s t : State} (hi : isFrameClass i = true) (h : exec i s = .next t) :
    t.fsm = .idle ∨ t.fsm = .send ∨ t.fsm = .halt := by
  by_cases hr : i = .tcpReply
  · subst hr
    obtain ⟨-, -, -, ⟨-, recs, rfl⟩ | ⟨-, frame, recs, -, rfl⟩⟩ := reply_cases h
    · exact .inr (.inr rfl)
    · exact .inr (.inl rfl)
  · obtain ⟨-, -, cls, recs, -, rfl⟩ := drop_cases (isDropClass_of_ne hi hr) h
    exact .inl rfl

/-- Settles O41: a legal PROC state holds a frame, so EXEC's guard reads its vector, and the class of that vector runs. -/
theorem procStepsOut : Obligations.ProcStepsOut := by
  intro s h hp hb
  obtain ⟨bs, hbs⟩ := h.holds hp
  have hstep := step_blockTurn hb hp (fcv_holds hbs)
  have hexec := exec_wholeExec hbs.popTurn
  exact ⟨_, hstep.trans hexec, frameClass_fsm (decodeFcv_isFrameClass _) hexec⟩

end Sys2Proof.Machine
end

/-! ### The diagnostic port (46_validation_fsm.md R250 to R252) -/

section
namespace Sys2Proof.Machine

/-- The state with `DIAG_ENABLE` and the port's past set to `en` and `d`. -/
def State.withPort (s : State) (en : Bool) (d : List DiagRec) : State :=
  { s with cfg := { s.cfg with diagEnable := en }, diag := d }

/-- `t` is `s` up to `DIAG_ENABLE`, which is `en`, and the port, which has carried nothing past `d` when it is disabled. -/
def State.SameUpToPort (en : Bool) (d : List DiagRec) (s t : State) : Prop :=
  ∃ d', t = s.withPort en d' ∧ (en = false → d' = d)

/-- Two outcomes are the same up to the port. -/
def SameUpToPort (en : Bool) (d : List DiagRec) : Outcome → Outcome → Prop
  | .next s, o => ∃ t, o = .next t ∧ s.SameUpToPort en d t
  | .fault f, o => o = .fault f
  | .refused r, o => o = .refused r

section
variable {en : Bool} {d : List DiagRec} {s t : State}

/-! What a step reads is neither `DIAG_ENABLE` nor the port. -/

@[simp] theorem withPort_fsm : (s.withPort en d).fsm = s.fsm := rfl
@[simp] theorem fcv_withPort : fcv (s.withPort en d) = fcv s := rfl
@[simp] theorem ipParsed_withPort : ipParsed (s.withPort en d) = ipParsed s := rfl
@[simp] theorem tcpParsed_withPort : tcpParsed (s.withPort en d) = tcpParsed s := rfl
@[simp] theorem rxPrefix_withPort : rxBytes (s.withPort en d) 0 4 = rxBytes s 0 4 := rfl
@[simp] theorem buildReply_withPort (pre : List Byte) (r : ReplyDesc) :
    buildReply (s.withPort en d).cfg pre r = buildReply s.cfg pre r := rfl

theorem txBytes_withPort (i n : Nat) : txBytes (s.withPort en d) i n = txBytes s i n := by
  induction n generalizing i with
  | zero => rfl
  | succ n ih =>
    have hbyte : txByte (s.withPort en d) i = txByte s i := rfl
    simp only [txBytes, ih, hbyte]

@[simp] theorem txFrame_withPort : txFrame (s.withPort en d) = txFrame s := by
  have hvalid : txValid (s.withPort en d) = txValid s := rfl
  simp only [txFrame, hvalid, txBytes_withPort]
  rfl

/-! What a step writes is the same up to the port. -/

theorem State.SameUpToPort.of_withPort (s : State) (en : Bool) (d : List DiagRec) : s.SameUpToPort en d (s.withPort en d) :=
  ⟨d, rfl, fun _ => rfl⟩

/-- A record goes out exactly when the port is enabled (R252). -/
theorem State.SameUpToPort.emit (h : s.SameUpToPort en d t) (r : DiagRec) : (s.emit r).SameUpToPort en d (t.emit r) := by
  obtain ⟨d', rfl, hd⟩ := h
  refine ⟨diagAfter (s.withPort en d') [r], ?_, fun hen => ?_⟩
  · apply State.eq_of_fields <;> simp [State.withPort]
  · simp [diagAfter, State.withPort, hen, hd hen]

/-- An update that commutes with setting the port does not look at it. -/
theorem State.SameUpToPort.map (h : s.SameUpToPort en d t) (f : State → State)
    (hf : ∀ s d, f (s.withPort en d) = (f s).withPort en d) : (f s).SameUpToPort en d (f t) := by
  obtain ⟨d', rfl, hd⟩ := h
  exact ⟨d', hf s d', hd⟩

theorem State.SameUpToPort.setFsm (h : s.SameUpToPort en d t) (x : Fsm) : (s.setFsm x).SameUpToPort en d (t.setFsm x) :=
  h.map (·.setFsm x) fun _ _ => rfl

theorem State.SameUpToPort.addLabel (h : s.SameUpToPort en d t) (cls : BitVec 4) (fatal : Option (BitVec 3)) :
    (s.addLabel cls fatal).SameUpToPort en d (t.addLabel cls fatal) :=
  h.map (·.addLabel cls fatal) fun _ _ => rfl

theorem State.SameUpToPort.raiseFatal (h : s.SameUpToPort en d t) (c : BitVec 3) :
    (s.raiseFatal c).SameUpToPort en d (t.raiseFatal c) :=
  h.map (·.raiseFatal c) fun _ _ => rfl

theorem State.SameUpToPort.discard (h : s.SameUpToPort en d t) (cls : BitVec 4) :
    (s.discard cls).SameUpToPort en d (t.discard cls) := by
  unfold State.discard
  split
  · exact ((h.emit _).setFsm _).addLabel _ _
  · exact (h.setFsm _).addLabel _ _

theorem State.SameUpToPort.finishReply (h : s.SameUpToPort en d t) (r : BuildResult) :
    (finishReply s r).SameUpToPort en d (finishReply t r) := by
  cases r with
  | built frame => exact (h.map (·.offer frame) fun _ _ => rfl).addLabel _ _
  | bufSmall => exact (h.raiseFatal _).addLabel _ _
  | csumFail =>
    have hpolicy : t.cfg.csumFailPolicy = s.cfg.csumFailPolicy := by
      obtain ⟨d', rfl, -⟩ := h
      rfl
    simp only [Machine.finishReply, hpolicy]
    split
    · exact (h.raiseFatal _).addLabel _ _
    · exact h.discard _

/-! The guards and the reads that a meaning stands behind pass on both sides or stop both alike. -/

theorem SameUpToPort.next (h : s.SameUpToPort en d t) : SameUpToPort en d (.next s) (.next t) := ⟨t, rfl, h⟩

theorem SameUpToPort.ite {c : Prop} [Decidable c] {k k' o o' : Outcome} (hk : SameUpToPort en d k k')
    (ho : SameUpToPort en d o o') : SameUpToPort en d (if c then k else o) (if c then k' else o') := by
  split
  · exact hk
  · exact ho

theorem SameUpToPort.onClass {k k' : Outcome} (i : Instr) (h : SameUpToPort en d k k') :
    SameUpToPort en d (onClass i s k) (onClass i (s.withPort en d) k') := by
  simp only [Machine.onClass, withPort_fsm, fcv_withPort]
  refine .ite ?_ rfl
  split
  · rfl
  · exact .ite h rfl

theorem SameUpToPort.onFsm {k k' : Outcome} (x : Fsm) (h : SameUpToPort en d k k') :
    SameUpToPort en d (onFsm x s k) (onFsm x (s.withPort en d) k') :=
  .ite h rfl

theorem SameUpToPort.withIp {k k' : IpHeader → Outcome} (h : ∀ ip, SameUpToPort en d (k ip) (k' ip)) :
    SameUpToPort en d (withIp s k) (withIp (s.withPort en d) k') := by
  simp only [Machine.withIp, ipParsed_withPort]
  split
  · rfl
  · exact h _

theorem SameUpToPort.withTcp {k k' : TcpHeader → Outcome} (h : ∀ tcp, SameUpToPort en d (k tcp) (k' tcp)) :
    SameUpToPort en d (withTcp s k) (withTcp (s.withPort en d) k') := by
  simp only [Machine.withTcp, tcpParsed_withPort]
  split
  · rfl
  · exact h _

end

section
variable (s : State) (en : Bool) (d : List DiagRec)

theorem discardRaw_sameUpToPort (cls : BitVec 4) : SameUpToPort en d (discardRaw s cls) (discardRaw (s.withPort en d) cls) :=
  .next ((State.SameUpToPort.of_withPort s en d).discard cls)

theorem discardIp_sameUpToPort (cls : BitVec 4) : SameUpToPort en d (discardIp s cls) (discardIp (s.withPort en d) cls) :=
  .withIp fun _ => .next (((State.SameUpToPort.of_withPort s en d).emit _).discard cls)

theorem discardTcp_sameUpToPort (cls : BitVec 4) : SameUpToPort en d (discardTcp s cls) (discardTcp (s.withPort en d) cls) :=
  .withIp fun _ => .withTcp fun _ => .next ((((State.SameUpToPort.of_withPort s en d).emit _).emit _).discard cls)

theorem replyPath_sameUpToPort : SameUpToPort en d (replyPath s) (replyPath (s.withPort en d)) := by
  refine .withIp fun ip => .withTcp fun tcp => ?_
  simp only [Config.prefixLen, rxPrefix_withPort, buildReply_withPort]
  split
  · rfl
  · exact .next ((((State.SameUpToPort.of_withPort s en d).emit _).emit _).finishReply _)

/-- Every instruction has the same outcome up to the port, one case per kind of meaning. -/
theorem exec_sameUpToPort (i : Instr) : SameUpToPort en d (exec i s) (exec i (s.withPort en d)) := by
  have hs := State.SameUpToPort.of_withPort s en d
  cases i with
  | frmRunt | ipTrunc | ipBadver | ipBadihl | ipShorthdr | ipBadlen => exact .onClass _ (discardRaw_sameUpToPort s en d _)
  | ipNontcp | tcpTrunc | tcpBadoff | tcpShorthdr => exact .onClass _ (discardIp_sameUpToPort s en d _)
  | tcpNosyn | tcpDone => exact .onClass _ (discardTcp_sameUpToPort s en d _)
  | tcpReply => exact .onClass _ (replyPath_sameUpToPort s en d)
  | rxFrame n bytes => exact .onFsm _ (.ite rfl (.ite (.next (hs.map (·.receive n bytes) fun _ _ => rfl)) rfl))
  | rxFail => exact .onFsm _ (.next (hs.raiseFatal _))
  | txOk =>
    refine .onFsm _ ?_
    rw [txFrame_withPort]
    split
    · rfl
    · exact .next ((hs.emit _).setFsm _)
  | txFail => exact .onFsm _ (.next (hs.raiseFatal _))
  | reset => exact .next (hs.map State.doReset fun _ _ => rfl)

end

/-- Settles O44: no guard and no read of a meaning looks at the port, and every write keeps the two states the same up to it. -/
theorem diagnosticsDoNotMatter : Obligations.DiagnosticsDoNotMatter := by
  intro i s en d
  have h : SameUpToPort en d (exec i s) (exec i { s with cfg := { s.cfg with diagEnable := en }, diag := d }) :=
    exec_sameUpToPort s en d i
  cases hexec : exec i s with
  | next t =>
    rw [hexec] at h
    obtain ⟨t', ht', d', rfl, hd⟩ := h
    rw [ht']
    exact ⟨rfl, hd⟩
  | fault f =>
    rw [hexec] at h
    rw [h]
  | refused r =>
    rw [hexec] at h
    rw [h]

end Sys2Proof.Machine
end

/-! ### What the class and the reply depend on (44_reply_builder.md R189, 30_encoding.md R98) -/

section
namespace Sys2Proof.Machine

/-- The vector of a frame that agrees with another on what R98 names is the same (30_encoding.md R95). -/
theorem fcvOf_congr {bs bs' : List Byte} (q r : Bool) (hlen : bs.length = bs'.length)
    (hver : (Frame.ip bs).version = (Frame.ip bs').version) (hihl : (Frame.ip bs).ihl = (Frame.ip bs').ihl)
    (htot : (Frame.ip bs).totalLength = (Frame.ip bs').totalLength)
    (hproto : (Frame.ip bs).protocol = (Frame.ip bs').protocol) (hdoff : (Frame.tcp bs).doff = (Frame.tcp bs').doff)
    (hsyn : (Frame.tcp bs).syn = (Frame.tcp bs').syn) : fcvOf q r bs = fcvOf q r bs' := by
  unfold fcvOf fcvTcpOf IpHeader.payloadLen IpHeader.hlen TcpHeader.hlen
  rw [hlen, hver, hihl, htot, hproto, hdoff, hsyn]

/-- Settles O45: the vector is computed from these, the version and the IHL being the two halves of the frame's byte 4. -/
theorem classDependsOnlyOn : Obligations.ClassDependsOnlyOn := by
  intro s s' bs bs' h h' hq hr hlen hb4 htot hproto hdoff hsyn
  have hver : (Frame.ip bs).version = (Frame.ip bs').version := congrArg (BitVec.extractLsb' 4 4) hb4
  have hihl : (Frame.ip bs).ihl = (Frame.ip bs').ihl := congrArg (BitVec.extractLsb' 0 4) hb4
  refine ⟨_, _, fcv_holds h, fcv_holds h', ?_⟩
  rw [hq, hr, fcvOf_congr _ _ hlen hver hihl htot hproto hdoff hsyn]

/-- A TCP_REPLY step with room for the reply offers the reply to the held frame (R89, R188). -/
theorem txFrame_of_tcpReply {s t : State} {bs : List Byte} (h : HoldsFrame s bs) (hc : 44 ≤ s.cfg.txCap)
    (hexec : exec .tcpReply s = .next t) : 4 ≤ bs.length ∧ txFrame t = .ok (replyFrame s.cfg bs) := by
  obtain ⟨v, hv, hdecode⟩ := frameClass_next rfl hexec
  have hzero : fcvOf s.cfg.requireSyn s.responded bs = 0 := by
    cases (fcv_holds h).symm.trans hv
    exact decodeFcv_eq_tcpReply_iff.mp hdecode
  obtain ⟨ht, hq, hr⟩ := fcvOf_reply hzero
  cases hexec.symm.trans (tcpReplyOffers s bs h ht (initiates_iff.mpr hq) hr hc).2
  exact ⟨le_trans (by decide) ht.held.ip.len, txFrame_afterReply _ (replyFrame_length _ _) hc⟩

/-- The reply is a function of what R189 names (30_encoding.md R89). -/
theorem replyFrame_congr (c : Params) {bs bs' : List Byte} (hl : 4 ≤ bs.length) (hl' : 4 ≤ bs'.length)
    (hpre : bs.take 4 = bs'.take 4) (hsrc : (Frame.ip bs).src = (Frame.ip bs').src)
    (hdst : (Frame.ip bs).dst = (Frame.ip bs').dst) (hsport : (Frame.tcp bs).sport = (Frame.tcp bs').sport)
    (hdport : (Frame.tcp bs).dport = (Frame.tcp bs').dport) (hseq : (Frame.tcp bs).seq = (Frame.tcp bs').seq)
    (hwindow : (Frame.tcp bs).window = (Frame.tcp bs').window) : replyFrame c bs = replyFrame c bs' := by
  rw [take_four_eq_bytes hl, take_four_eq_bytes hl'] at hpre
  simp only [List.cons.injEq, and_true] at hpre
  obtain ⟨h0, h1, h2, h3⟩ := hpre
  have hbytes (ipCk tcpCk : BitVec 16) : replyBytes c bs ipCk tcpCk = replyBytes c bs' ipCk tcpCk := by
    simp only [replyBytes, h0, h1, h2, h3, hsrc, hdst, hsport, hdport, hseq, hwindow]
  simp only [replyFrame, replyIpCk, replyTcpCk, hbytes, hsrc, hdst]

/-- Settles O46: each port offers the reply to its own frame, and the two replies are the same. -/
theorem replyDependsOnlyOn : Obligations.ReplyDependsOnlyOn := by
  intro s s' t t' bs bs' h h' hcfg hc hexec hexec' hpre hsrc hdst hsport hdport hseq hwindow
  obtain ⟨hl, hframe⟩ := txFrame_of_tcpReply h hc hexec
  obtain ⟨hl', hframe'⟩ := txFrame_of_tcpReply h' (hcfg ▸ hc) hexec'
  refine ⟨_, hframe, ?_⟩
  rw [hframe', ← hcfg, replyFrame_congr s.cfg hl hl' hpre hsrc hdst hsport hdport hseq hwindow]

end Sys2Proof.Machine
end

/-! ### Filled-in checksums verify (45_checksum.md R206 to R208) -/

section
namespace Sys2Proof.Machine

/-- A word and its complement sum to 0xFFFF (R200). -/
theorem onesAdd_not (a : BitVec 16) : onesAdd a (~~~a) = 0xFFFF := by
  apply BitVec.eq_of_toNat_eq
  have ha := a.isLt
  have hfull : (0xFFFF : BitVec 16).toNat = 65535 := by decide
  rw [onesAdd_toNat_ite, BitVec.toNat_not, hfull]
  split <;> omega

theorem onesSum_bytes16 (v : BitVec 16) : onesSum (bytes16 v) = v := by
  simp [bytes16, onesSum]

/-- A 16-bit field stands between the bytes before it and those after it. -/
theorem put16_eq_append {bs : List Byte} {i : Nat} (h : i + 1 < bs.length) (v : BitVec 16) :
    put16 bs i v = bs.take i ++ (bytes16 v ++ bs.drop (i + 2)) := by
  induction i generalizing bs with
  | zero =>
    match bs, h with
    | _ :: _ :: _, _ => rfl
  | succ i ih =>
    match bs, h with
    | b :: bs, h => exact congrArg (b :: ·) (ih (Nat.lt_of_succ_lt_succ h))

/-- Writing the zero that a field holds changes nothing. -/
theorem put16_zero {bs : List Byte} {i : Nat} (h0 : bs[i]? = some 0) (h1 : bs[i + 1]? = some 0) : put16 bs i 0#16 = bs := by
  have hset (b : Byte) (j : Nat) (h : bs[j]? = some b) : bs.set j b = bs := by
    obtain ⟨hj, rfl⟩ := List.getElem?_eq_some_iff.mp h
    exact List.set_getElem_self hj
  rw [put16]
  exact (congrArg (·.set (i + 1) 0) (hset 0 i h0)).trans (hset 0 (i + 1) h1)

/-- The sum with a field filled in is the sum with the field zero, and the field (R202). -/
theorem onesSum_put16 {pre bs : List Byte} {i : Nat} (hpre : pre.length % 2 = 0) (hi : i % 2 = 0) (h0 : bs[i]? = some 0)
    (h1 : bs[i + 1]? = some 0) (v : BitVec 16) :
    onesSum (pre ++ put16 bs i v) = onesAdd (onesSum (pre ++ bs)) v := by
  obtain ⟨hlen, -⟩ := List.getElem?_eq_some_iff.mp h1
  have htake : (pre ++ bs.take i).length % 2 = 0 := by
    rw [List.length_append, List.length_take]
    omega
  have hfield (w : BitVec 16) : onesSum (pre ++ put16 bs i w) =
      onesAdd (onesAdd (onesSum (pre ++ bs.take i)) (onesSum (bs.drop (i + 2)))) w := by
    calc onesSum (pre ++ put16 bs i w)
        = onesSum ((pre ++ bs.take i) ++ (bytes16 w ++ bs.drop (i + 2))) := by
          rw [put16_eq_append hlen, List.append_assoc]
      _ = onesAdd (onesSum (pre ++ bs.take i)) (onesAdd w (onesSum (bs.drop (i + 2)))) := by
          rw [onesSum_append _ _ htake, onesSum_append (bytes16 w) _ (by rw [bytes16_length]), onesSum_bytes16]
      _ = _ := by rw [onesAdd_comm w, onesAdd_assoc]
  have hzero := hfield 0#16
  rw [put16_zero h0 h1, onesAdd_zero] at hzero
  rw [hfield, hzero]

/-- A checksum field that holds the checksum of the bytes with the field zero brings the sum to 0xFFFF (R208). -/
theorem onesSum_filled {pre bs : List Byte} {i : Nat} (hpre : pre.length % 2 = 0) (hi : i % 2 = 0) (h0 : bs[i]? = some 0)
    (h1 : bs[i + 1]? = some 0) : onesSum (pre ++ put16 bs i (csum16 (pre ++ bs))) = 0xFFFF := by
  rw [onesSum_put16 hpre hi h0 h1, csum16, onesAdd_not]

theorem csum16_filled {pre bs : List Byte} {i : Nat} (hpre : pre.length % 2 = 0) (hi : i % 2 = 0) (h0 : bs[i]? = some 0)
    (h1 : bs[i + 1]? = some 0) : csum16 (pre ++ put16 bs i (csum16 (pre ++ bs))) = 0 := by
  rw [csum16, onesSum_filled hpre hi h0 h1]
  rfl

theorem tcpChecksum_eq_none_iff (src dst : BitVec 32) (proto : BitVec 8) (seg : List Byte) :
    tcpChecksum src dst proto seg = none ↔ 0xFFFF < seg.length := by
  refine ⟨fun h => ?_, fun h => if_pos h⟩
  by_contra hs
  cases h.symm.trans (tcpChecksum_short src dst proto seg (not_lt.mp hs))

/-- A pseudo-header is a whole number of words (30_encoding.md R88). -/
theorem pseudoHeader_even (src dst : BitVec 32) (proto : BitVec 8) (len : BitVec 16) :
    (pseudoHeader src dst proto len).length % 2 = 0 := by simp [pseudoHeader]

/-- Settles O50: the pseudo-header has an even length and the checksum field an even offset, so filling the field in adds the
complement of the sum to the sum. -/
theorem segmentChecksumVerifies : Obligations.SegmentChecksumVerifies := by
  refine ⟨tcpChecksum_eq_none_iff, fun src dst proto seg _ hlen h0 h1 => ⟨_, tcpChecksum_short src dst proto seg hlen, ?_, ?_⟩⟩
  · exact onesSum_filled (pseudoHeader_even ..) rfl h0 h1
  · exact csum16_filled (pseudoHeader_even ..) rfl h0 h1

/-- The checksum field of the reply's IPv4 header starts zero (R181), and so filled in it verifies. -/
theorem csum16_replyIpHeader_filled (c : Params) (r : ReplyDesc) :
    csum16 (put16 (replyIpHeader c r) 10 (csum16 (replyIpHeader c r))) = 0 :=
  csum16_filled (pre := []) (bs := replyIpHeader c r) (i := 10) rfl rfl rfl rfl

/-- The checksum field of the reply's TCP header starts zero (R182), and so filled in it verifies with the pseudo-header. -/
theorem csum16_replyTcpHeader_filled (src dst : BitVec 32) (proto : BitVec 8) (len : BitVec 16) (r : ReplyDesc) :
    csum16 (pseudoHeader src dst proto len ++
      put16 (replyTcpHeader r) 16 (csum16 (pseudoHeader src dst proto len ++ replyTcpHeader r))) = 0 :=
  csum16_filled (pseudoHeader_even ..) (bs := replyTcpHeader r) (i := 16) rfl rfl rfl

/-- The reply's IPv4 header on the port is the header with its checksum field filled in (R184). -/
theorem replyFrame_ipHeader (c : Params) (bs : List Byte) : ((replyFrame c bs).drop 4).take 20 =
    put16 (replyIpHeader c (deriveReply (Frame.ip bs) (Frame.tcp bs))) 10
      (csum16 (replyIpHeader c (deriveReply (Frame.ip bs) (Frame.tcp bs)))) := by
  rw [replyFrame, replyBytes_parts, replyIpCk_eq]
  rfl

/-- The reply's TCP header on the port is the header with its checksum field filled in (R185). -/
theorem replyFrame_tcpHeader (c : Params) (bs : List Byte) : (replyFrame c bs).drop 24 =
    put16 (replyTcpHeader (deriveReply (Frame.ip bs) (Frame.tcp bs))) 16
      (csum16 (pseudoHeader (Frame.ip bs).dst (Frame.ip bs).src 6 20 ++
        replyTcpHeader (deriveReply (Frame.ip bs) (Frame.tcp bs)))) := by
  rw [replyFrame, replyBytes_parts, replyTcpCk_eq]
  rfl

/-- Settles O51: each header on the port is one with its checksum field filled in, and the reply's addresses and protocol are
those of the pseudo-header the TCP checksum was taken with. -/
theorem replyChecksumsVerify : Obligations.ReplyChecksumsVerify := by
  intro s bs h ht hq hr hc
  obtain ⟨-, hstep⟩ := tcpReplyOffers s bs h ht hq hr hc
  obtain ⟨-, hproto, hsrc, hdst⟩ := replyBytes_ipFields s.cfg bs (replyIpCk s.cfg bs) (replyTcpCk s.cfg bs)
  refine ⟨_, replyFrame s.cfg bs, hstep, txFrame_afterReply _ (replyFrame_length _ _) hc, ?_, ?_⟩
  · rw [replyFrame_ipHeader, csum16_replyIpHeader_filled]
  · have hpseudo : pseudoHeader (Frame.word (replyFrame s.cfg bs) 16) (Frame.word (replyFrame s.cfg bs) 20)
        (Frame.byte (replyFrame s.cfg bs) 13) 20 = pseudoHeader (Frame.ip bs).dst (Frame.ip bs).src 6 20 := by
      rw [replyFrame, hsrc, hdst, hproto]
    rw [hpseudo, replyFrame_tcpHeader, csum16_replyTcpHeader_filled]

end Sys2Proof.Machine
end

/-! ### The parsers recover what was encoded (41_ipv4_parser.md R133, 42_tcp_parser.md R151) -/

section
namespace Sys2Proof.Machine

/-! A field of a header `e` that stands at offset `b` of a frame. -/

theorem slice_of_take_drop {bs e : List Byte} {b n k m : Nat} (h : (bs.drop b).take n = e) (hkm : k + m ≤ n) :
    (bs.drop (b + k)).take m = (e.drop k).take m := by
  rw [← h, List.drop_take, List.take_take, List.drop_drop, min_eq_left (by omega)]

theorem byte_of_take_drop {bs e : List Byte} {b n k : Nat} (h : (bs.drop b).take n = e) (hk : k < n) :
    Frame.byte bs (b + k) = e.getD k 0 := by
  simp [Frame.byte, ← h, hk]

theorem half_of_take_drop {bs e : List Byte} {b n k : Nat} {v : BitVec 16} (h : (bs.drop b).take n = e)
    (hk : k + 2 ≤ n) (hv : (e.drop k).take 2 = bytes16 v) : Frame.half bs (b + k) = v :=
  half_of_bytes16 ((slice_of_take_drop h hk).trans hv)

theorem word_of_take_drop {bs e : List Byte} {b n k : Nat} {v : BitVec 32} (h : (bs.drop b).take n = e)
    (hk : k + 4 ≤ n) (hv : (e.drop k).take 4 = bytes32 v) : Frame.word bs (b + k) = v :=
  word_of_bytes32 ((slice_of_take_drop h hk).trans hv)

/-! Fields that share a byte or a word are read back from it (20_memory.md R53). -/

/-- The version and the IHL share a byte (30_encoding.md R72). -/
theorem version_ihl_of_byte {b : Byte} {version ihl : BitVec 4} (hb : b = version ++ ihl) :
    b.extractLsb' 4 4 = version ∧ b.extractLsb' 0 4 = ihl := by
  subst hb
  exact ⟨BitVec.extractLsb'_append_eq_left, BitVec.extractLsb'_append_eq_right⟩

/-- The three flags and the fragment offset share a word (30_encoding.md R72). -/
theorem fragment_fields_of_half {v : BitVec 16} {reserved df mf : BitVec 1} {offset : BitVec 13}
    (hv : v = reserved ++ df ++ mf ++ offset) :
    v.extractLsb' 15 1 = reserved ∧ v.extractLsb' 14 1 = df ∧ v.extractLsb' 13 1 = mf ∧ v.extractLsb' 0 13 = offset := by
  subst hv
  exact ⟨(BitVec.extractLsb'_append_eq_of_le (by decide)).trans
      ((BitVec.extractLsb'_append_eq_of_le (by decide)).trans BitVec.extractLsb'_append_eq_left),
    (BitVec.extractLsb'_append_eq_of_le (by decide)).trans
      ((BitVec.extractLsb'_append_eq_of_le (by decide)).trans BitVec.extractLsb'_append_eq_right),
    (BitVec.extractLsb'_append_eq_of_le (by decide)).trans BitVec.extractLsb'_append_eq_right,
    BitVec.extractLsb'_append_eq_right⟩

/-- The data offset, the reserved bits and NS share a byte (30_encoding.md R80). -/
theorem doff_fields_of_byte {b : Byte} {doff : BitVec 4} {reserved : BitVec 3} {ns : BitVec 1}
    (hb : b = doff ++ reserved ++ ns) :
    b.extractLsb' 4 4 = doff ∧ b.extractLsb' 1 3 = reserved ∧ b.extractLsb' 0 1 = ns := by
  subst hb
  exact ⟨(BitVec.extractLsb'_append_eq_of_le (by decide)).trans BitVec.extractLsb'_append_eq_left,
    (BitVec.extractLsb'_append_eq_of_le (by decide)).trans BitVec.extractLsb'_append_eq_right,
    BitVec.extractLsb'_append_eq_right⟩

/-- The IPv4 fields of a frame that encodes a header are the header's (30_encoding.md R72). -/
theorem ip_of_ipBytes {bs : List Byte} {h : IpHeader} (hb : (bs.drop 4).take 20 = Frame.ipBytes h) : Frame.ip bs = h := by
  obtain ⟨hversion, hihl⟩ := version_ihl_of_byte (b := Frame.byte bs 4) (byte_of_take_drop hb (k := 0) (by decide))
  have htos : Frame.byte bs 5 = h.tos := byte_of_take_drop hb (k := 1) (by decide)
  have htot : Frame.half bs 6 = h.totalLength := half_of_take_drop hb (k := 2) (by decide) rfl
  have hident : Frame.half bs 8 = h.ident := half_of_take_drop hb (k := 4) (by decide) rfl
  obtain ⟨hreserved, hdf, hmf, hoffset⟩ := fragment_fields_of_half (v := Frame.half bs 10)
    (half_of_take_drop hb (k := 6) (by decide) rfl)
  have httl : Frame.byte bs 12 = h.ttl := byte_of_take_drop hb (k := 8) (by decide)
  have hproto : Frame.byte bs 13 = h.protocol := byte_of_take_drop hb (k := 9) (by decide)
  have hck : Frame.half bs 14 = h.hdrChecksum := half_of_take_drop hb (k := 10) (by decide) rfl
  have hsrc : Frame.word bs 16 = h.src := word_of_take_drop hb (k := 12) (by decide) rfl
  have hdst : Frame.word bs 20 = h.dst := word_of_take_drop hb (k := 16) (by decide) rfl
  rw [Frame.ip, hversion, hihl, htos, htot, hident, hreserved, hdf, hmf, hoffset, httl, hproto, hck, hsrc, hdst]

/-- The TCP fields at an offset where a header is encoded are the header's (30_encoding.md R80). -/
theorem tcpAt_of_tcpBytes {bs : List Byte} {b : Nat} {t : TcpHeader} (hb : (bs.drop b).take 20 = Frame.tcpBytes t) :
    Frame.tcpAt bs b = t := by
  have hsport : Frame.half bs b = t.sport := half_of_take_drop hb (k := 0) (by decide) rfl
  have hdport : Frame.half bs (b + 2) = t.dport := half_of_take_drop hb (by decide) rfl
  have hseq : Frame.word bs (b + 4) = t.seq := word_of_take_drop hb (by decide) rfl
  have hack : Frame.word bs (b + 8) = t.ack := word_of_take_drop hb (by decide) rfl
  obtain ⟨hdoff, hreserved, hns⟩ := doff_fields_of_byte (b := Frame.byte bs (b + 12)) (byte_of_take_drop hb (by decide))
  have hflags : Frame.byte bs (b + 13) = t.flags := byte_of_take_drop hb (by decide)
  have hwindow : Frame.half bs (b + 14) = t.window := half_of_take_drop hb (by decide) rfl
  have hck : Frame.half bs (b + 16) = t.checksum := half_of_take_drop hb (by decide) rfl
  have hurgent : Frame.half bs (b + 18) = t.urgent := half_of_take_drop hb (by decide) rfl
  rw [Frame.tcpAt, hsport, hdport, hseq, hack, hdoff, hreserved, hns, hflags, hwindow, hck, hurgent]

/-- Settles O52: a held frame's view is the fields of its bytes, and these are the encoded header's. -/
theorem ipv4ParserRecovers : Obligations.Ipv4ParserRecovers := by
  intro s pre rest h hpre hs
  have hslice : ((pre ++ Frame.ipBytes h ++ rest).drop 4).take 20 = Frame.ipBytes h := by
    rw [List.append_assoc, List.drop_left' hpre]
    exact List.take_left' rfl
  have hlen : 24 ≤ (pre ++ Frame.ipBytes h ++ rest).length := by
    have hip : (Frame.ipBytes h).length = 20 := rfl
    simp only [List.length_append]
    omega
  have hip := ip_of_ipBytes hslice
  refine ⟨by rw [ipView_holds hs hlen, hip], fun hok => ⟨by rw [ipParsed_holds hs hok, hip], rfl, rfl⟩⟩

/-- Settles O53: a held frame's view is the fields of its bytes at `ip.payload_start`, and these are the encoded header's. -/
theorem tcpParserRecovers : Obligations.TcpParserRecovers := by
  intro s bs t hs ht hb
  rw [tcpView_holds hs ht, Frame.tcp, tcpAt_of_tcpBytes hb]

end Sys2Proof.Machine
end

/-! ### Reads without meaning (10_state.md R27 to R29, 20_memory.md R51, R56) -/

section
namespace Sys2Proof.Machine

theorem ipLen_runt {s : State} (h : s.rxLen.toNat < 4) : ipLen s = .error .viewUndefined :=
  if_pos h

/-- The IPv4 header view needs the first 24 bytes of the frame (10_state.md R28). -/
theorem ipView_short {s : State} (h : s.rxLen.toNat < 24) : ipView s = .error .viewUndefined := by
  by_cases hrunt : s.rxLen.toNat < 4
  · rw [ipView, ipLen_runt hrunt]
  · have hlen : ipLen s = .ok (s.rxLen.toNat - 4) := if_neg hrunt
    rw [ipView, hlen]
    exact if_pos (by simp only [Config.ipv4MinHlen]; omega)

/-- On a frame with its fixed header there the checks of the view pass only when the header parses (41_ipv4_parser.md R128). -/
theorem ipOk_of_ipAccepts {bs : List Byte} (hl : 24 ≤ bs.length) (h : ipAccepts (bs.length - 4) (Frame.ip bs) = true) :
    Frame.IpOk bs := by
  simp only [ipAccepts, Bool.and_eq_true, decide_eq_true_eq] at h
  obtain ⟨⟨⟨⟨hversion, hihl⟩, hfits⟩, hlow⟩, hhigh⟩ := h
  exact ⟨hl, hversion, hihl, hfits, hlow, hhigh⟩

theorem ipParsed_not_ipOk {s : State} {bs : List Byte} (h : HoldsFrame s bs) (hi : ¬ Frame.IpOk bs) :
    ipParsed s = .error .viewUndefined := by
  by_cases hrunt : bs.length < 4
  · rw [ipParsed, ipLen_runt (h.len ▸ hrunt)]
  rw [ipParsed, ipLen_holds h (by omega)]
  by_cases hshort : bs.length < 24
  · simp only [ipView_short (h.len ▸ hshort)]
  have hl : 24 ≤ bs.length := by omega
  simp only [ipView_holds h hl, if_neg (mt (ipOk_of_ipAccepts hl) hi)]

theorem tcpView_not_tcpHeld {s : State} {bs : List Byte} (h : HoldsFrame s bs) (ht : ¬ Frame.TcpHeld bs) :
    tcpView s = .error .viewUndefined := by
  by_cases hi : Frame.IpOk bs
  · rw [tcpView, ipParsed_holds h hi]
    exact if_neg fun ⟨hproto, hfixed⟩ => ht ⟨hi, hproto, hfixed⟩
  · rw [tcpView, ipParsed_not_ipOk h hi]

theorem tcpParsed_not_tcpOk {s : State} {bs : List Byte} (h : HoldsFrame s bs) (ht : ¬ Frame.TcpOk bs) :
    tcpParsed s = .error .viewUndefined := by
  by_cases hi : Frame.IpOk bs
  · rw [tcpParsed, ipParsed_holds h hi]
    by_cases hheld : Frame.TcpHeld bs
    · simp only [tcpView_holds h hheld]
      refine if_neg fun haccepts => ht ?_
      simp only [tcpAccepts, Bool.and_eq_true, decide_eq_true_eq] at haccepts
      exact ⟨hheld, haccepts.1, haccepts.2⟩
    · simp only [tcpView_not_tcpHeld h hheld]
  · rw [tcpParsed, ipParsed_not_ipOk h hi]

/-- Settles O54: each view fails at the first of its guards that does not hold. -/
theorem viewsUndefinedOutsideGuard : Obligations.ViewsUndefinedOutsideGuard :=
  ⟨fun _ => ipLen_runt, fun _ => ipView_short, fun _ _ => ipParsed_not_ipOk, fun _ _ => tcpView_not_tcpHeld,
    fun _ _ => tcpParsed_not_tcpOk⟩

/-- Settles O55: each read tests first that it is below `rx_len`, or that a frame is offered. -/
theorem staleBytesNotRead : Obligations.StaleBytesNotRead := by
  refine ⟨fun s i h => if_pos h, fun s h => ⟨if_neg ?_, fun i => if_pos h⟩⟩
  simpa [txValid] using h

end Sys2Proof.Machine
end

/-! ### What a step runs (46_validation_fsm.md R220 to R222) -/

section
namespace Sys2Proof.Machine

theorem step_hostTurn {s : State} {w : HostWord} {ts : List Turn} {i : Instr} (ht : s.turns = .host w :: ts)
    (hw : decode (.host w) = .ok i) : step s = exec i { s with turns := ts } := by
  have hfetch : fetch s = .run i { s with turns := ts } := by
    rw [fetch, ht]
    simp only [fetchHost, hw]
  rw [step, hfetch]

theorem step_hostTurn_rejected {s : State} {w : HostWord} {ts : List Turn} {e : DecodeError}
    (ht : s.turns = .host w :: ts) (hw : decode (.host w) = .error e) : step s = .refused (.rejected e) := by
  have hfetch : fetch s = .noMove (.rejected e) := by
    rw [fetch, ht]
    simp only [fetchHost, hw]
  rw [step, hfetch]

/-- RESET is decoded before the event code is looked at (R221). -/
theorem decode_rst {w : HostWord} (h : w.rst = true) : decode (.host w) = .ok .reset :=
  if_pos h

/-- Settles O4: such a word decodes to RESET, and the host's turn runs what its word decodes to. -/
theorem resetInputWins : Obligations.ResetInputWins := fun _ _ _ ht hw =>
  ⟨decode_rst hw, step_hostTurn ht (decode_rst hw)⟩

/-- RX_FRAME's operands are rejected exactly when the port cannot carry them (R232). -/
theorem decodeRxFrame_error_iff (n : BitVec 11) (bytes : List Byte) :
    (∃ e, decodeRxFrame n bytes = .error e) ↔ 1504 < n.toNat ∨ bytes.length ≠ n.toNat := by
  unfold decodeRxFrame
  by_cases hn : 1504 < n.toNat
  · simp [hn]
  · by_cases hl : bytes.length = n.toNat <;> simp [hn, hl]

/-- Only RX_FRAME has operands that can be rejected (R99). -/
theorem decodeHost_error_iff (w : HostWord) : (∃ e, decode (.host w) = .error e) ↔
    w.rst = false ∧ w.hev = 0 ∧ (1504 < w.n.toNat ∨ w.bytes.length ≠ w.n.toNat) := by
  by_cases hr : w.rst = true
  · simp [decode_rst hr, hr]
  rw [decode, decodeHost, if_neg hr]
  split
  next hev => simp [decodeRxFrame_error_iff, hr, hev]
  all_goals next hev => simp [hev]

/-- Settles O5: the turn decides what is fetched, and only RX_FRAME's operands can be rejected. -/
theorem stepRunsDecoded : Obligations.StepRunsDecoded := by
  refine ⟨fun s w ts i => step_hostTurn, fun s v i hb hp hv hi => ?_, decodeHost_error_iff, fun s w ts e =>
    step_hostTurn_rejected⟩
  cases hi
  exact step_blockTurn hb hp hv

/-- Settles O6: the block fetches in PROC only. -/
theorem blockTurnAwaitsHost : Obligations.BlockTurnAwaitsHost := by
  intro s hb hp
  have hfetch : fetchBlock (popTurn s) = .noMove .awaitsHost := if_neg hp
  rw [step, fetch_blockTurn hb, hfetch]

/-- Settles O1: the decoder answers each of the words. -/
theorem specWordsDecode : Obligations.SpecWordsDecode := by
  unfold Obligations.SpecWordsDecode
  decide

end Sys2Proof.Machine
end

/-! ### REPLY_BUILD's failures (44_reply_builder.md R187, 45_checksum.md R207) -/

section
namespace Sys2Proof.Machine

/-- REPLY_BUILD fails below 44 bytes and in no other way (44_reply_builder.md R187, 45_checksum.md R207). -/
theorem buildReply_failures (c : Params) (pre : List Byte) (r : ReplyDesc) :
    (buildReply c pre r = .bufSmall ↔ c.txCap < 44) ∧ buildReply c pre r ≠ .csumFail := by
  obtain ⟨hc, hb⟩ | ⟨hc, hb⟩ := buildReply_cases c pre r
  · simp [hb, hc]
  · simp [hb, hc]

/-- Settles O57: REPLY_BUILD's failures are its capacity check's, and each ends as `finishReply` says. -/
theorem buildFailuresHandled : Obligations.BuildFailuresHandled := by
  refine ⟨buildReply_failures, fun s => rfl, fun s h => ?_, fun s h => ?_⟩
  · simp only [finishReply, h]
    rfl
  · simp only [finishReply, h]
    rfl

end Sys2Proof.Machine
end
